-- ==== Sys2Proof/Word.lean ====
section
/-! DEFINITION. The word types, the named value sets and the plainest arithmetic of FLEXFE
(`00_scope.md` rules R10 to R13). -/

namespace Sys2Proof

/-- A 32-bit word: a payload, a phase-buffer word, a response value (`20_memory.md` R77). -/
abbrev Word := BitVec 32

/-- A symbol, "an integer 0 to 3": 0 is the most negative level (`30_encoding.md` R91). -/
abbrev Symbol := BitVec 2

/-- The spec's type `Num` of the analog registers: an exact rational (`00_scope.md` R9, R13). -/
abbrev Analog := Rat

/-- The bit of `v` at each position from 0 to `n - 1`, counted where it is 1. -/
def onesBelow {w : Nat} (v : BitVec w) : Nat → Nat
  | 0 => 0
  | n + 1 => onesBelow v n + (if v.getLsbD n then 1 else 0)

/-- `popcount(v)`: the number of bits of `v` that are 1 (`00_scope.md` R11). -/
def popcount {w : Nat} (v : BitVec w) : Nat := onesBelow v w

/-- The Hamming distance of `a` and `b`, `popcount(a ^ b)` (`00_scope.md` R11). -/
def hamming {w : Nat} (a b : BitVec w) : Nat := popcount (a ^^^ b)

/-- A symbol rate: 1600 or 3200 baud (`10_state.md` R22, R35). -/
inductive Baud where
  | b1600
  | b3200
deriving DecidableEq, Repr

/-- The FSK level count of a frame: 2 or 4 (`10_state.md` R35). -/
inductive Levels where
  | two
  | four
deriving DecidableEq, Repr

/-- The polarity at which a sync word was accepted (`10_state.md` R35). -/
inductive Polarity where
  | normal
  | inverted
deriving DecidableEq, Repr

/-- The four states of the frame state machine (`10_state.md` R36). -/
inductive FrameState where
  | sync1
  | fiw
  | sync2
  | data
deriving DecidableEq, Repr

/-- The four phases of the phase-buffer memory (`10_state.md` R41). -/
inductive Phase where
  | a
  | b
  | c
  | d
deriving DecidableEq, Repr

/-- Four like things, numbered 0 to 3: the symbol counters (`10_state.md` R27), the idle
counters (R42). -/
structure Four (α : Type) where
  n0 : α
  n1 : α
  n2 : α
  n3 : α
deriving DecidableEq, Repr

end Sys2Proof
end

