-- ==== Sys2Proof/Machine/Bch.lean ====
section
/-! DEFINITION. The BCH(31,21,5) codec (`41_bch.md`): the tables of GF(2^5), the encoder, the
syndromes and the corrector. It has no writable state (`10_state.md` R46). -/

namespace Sys2Proof.Machine

/-- The ROM `alpha_to[0..30]` (`10_state.md` R45, `41_bch.md` R121). -/
def alphaTable : List (BitVec 5) :=
  [1#5, 2#5, 4#5, 8#5, 16#5, 5#5, 10#5, 20#5, 13#5, 26#5, 17#5, 7#5, 14#5, 28#5, 29#5, 31#5,
   27#5, 19#5, 3#5, 6#5, 12#5, 24#5, 21#5, 15#5, 30#5, 25#5, 23#5, 11#5, 22#5, 9#5, 18#5]

/-- The ROM `index_of[1..31]`, entry `v - 1` for the element `v` (`10_state.md` R45, `41_bch.md`
R121). -/
def indexTable : List Nat :=
  [0, 1, 18, 2, 5, 19, 11, 3, 29, 6, 27, 20, 8, 12, 23,
   4, 10, 30, 17, 7, 22, 28, 26, 21, 25, 9, 16, 13, 14, 24, 15]

/-- `alpha_to[i mod 31]`: exponents are taken modulo 31 (`41_bch.md` R121). -/
def alphaTo (i : Nat) : BitVec 5 := alphaTable.getD (i % 31) 0#5

/-- `index_of[v]`; the element 0 has no logarithm, the spec's marker -1 (`10_state.md` R45). -/
def indexOf (v : BitVec 5) : Option Nat :=
  if v = 0#5 then none else some (indexTable.getD (v.toNat - 1) 0)

/-- Field multiplication (`41_bch.md` R121). -/
def gmul (a b : BitVec 5) : BitVec 5 :=
  match indexOf a, indexOf b with
  | some i, some j => alphaTo (i + j)
  | _, _ => 0#5

/-- Field inverse of a non-zero element (`41_bch.md` R121). Every use has a non-zero operand
(R128). -/
def ginv (a : BitVec 5) : BitVec 5 :=
  match indexOf a with
  | some i => alphaTo (31 - i)
  | none => 0#5

/-- The received bit at codeword position `j`: word bit `30 - j` (`41_bch.md` R124). -/
def codeBit (w : Word) (j : Nat) : Bool := w.getLsbD (30 - j)

/-- A word with only the bit of codeword position `j` set (`41_bch.md` R124). -/
def positionMask (j : Nat) : Word := 1#32 <<< (30 - j)

/-- The word with the bit at codeword position `j` complemented (`41_bch.md` R127). -/
def flipPosition (w : Word) (j : Nat) : Word := w ^^^ positionMask j

/-- The sum of `alpha^(i * j)` over the listed positions `j` whose received bit is 1. -/
def syndromeOver (i : Nat) (w : Word) : List Nat → BitVec 5
  | [] => 0#5
  | j :: rest => (if codeBit w j then alphaTo (i * j) else 0#5) ^^^ syndromeOver i w rest

/-- The syndrome `S_i` (`41_bch.md` R125). -/
def syndrome (i : Nat) (w : Word) : BitVec 5 := syndromeOver i w (List.range 31)

/-- Bits 30:0 of the word with bit 31 cleared: the part of the word that is the codeword
(`41_bch.md` R124). -/
def codewordPart (w : Word) : Word := w &&& 0x7FFFFFFF#32

/-- `q` at the trial exponent `i` of the Chien search (`41_bch.md` R128). -/
def locatorValue (elp1 elp2 : BitVec 5) (i : Nat) : BitVec 5 :=
  1#5 ^^^ gmul elp1 (alphaTo i) ^^^ gmul elp2 (alphaTo (2 * i))

/-- "Chien search over 1..n": the positions `i mod 31`, `i` from 1 to 31, at which the locator
vanishes, in that order (`41_bch.md` R128). -/
def chienRoots (elp1 elp2 : BitVec 5) : List Nat :=
  ((List.range' 1 31).filter (fun i => locatorValue elp1 elp2 i == 0#5)).map (fun i => i % 31)

/-- The single-error test in index form (`41_bch.md` R127): the position, if it is one error. -/
def singleErrorPosition (s1 s3 : BitVec 5) : Option Nat :=
  match indexOf s1, indexOf s3 with
  | some i, some k => if k = (3 * i) % 31 then some i else none
  | _, _ => none

/-- The double-error attempt (`41_bch.md` R128). -/
def correctDouble (w : Word) (s1 s2 s3 : BitVec 5) : Option (Word × Nat) :=
  let aux := gmul s1 (gmul s1 s1) ^^^ s3
  let elp1 := gmul s2 (ginv aux)
  let elp2 := gmul s1 (ginv aux)
  match chienRoots elp1 elp2 with
  | [p, q] => some (flipPosition (flipPosition w p) q, 2)
  | _ => none

/-- `correct`: the decision tree, in its order (`41_bch.md` R126). `none` is Uncorrectable; the
number is `errors_fixed`. -/
def bchCorrect (w : Word) : Option (Word × Nat) :=
  let s1 := syndrome 1 w
  let s2 := syndrome 2 w
  let s3 := syndrome 3 w
  let s4 := syndrome 4 w
  if s1 = 0#5 ∧ s2 = 0#5 ∧ s3 = 0#5 ∧ s4 = 0#5 then some (w, 0)
  else if s1 = 0#5 then none
  else
    match singleErrorPosition s1 s3 with
    | some p => some (flipPosition w p, 1)
    | none => correctDouble w s1 s2 s3

/-- `fix_errors`: on success the corrected codeword in bits 30:0 with bit 31 = 0 and
`errors_fixed`; `none` on Uncorrectable, where the word stays as it was (`41_bch.md` R130). -/
def fixErrors (w : Word) : Option (Word × Nat) := bchCorrect (codewordPart w)

/-- One step of the LFSR division (`41_bch.md` R123). -/
def lfsrStep (bb : BitVec 10) (bit : Bool) : BitVec 10 :=
  let shifted := bb <<< 1
  if bit != bb.getLsbD 9 then shifted ^^^ 0x369#10 else shifted

/-- The ten parity bits: the division of `x^10 d(x)` by the generator. `data[i]`, `i` from 20 down
to 0, is bit `20 - i` of the data, so the data bits enter from bit 0 up (`41_bch.md` R123, R124). -/
def bchParity (d : BitVec 21) : BitVec 10 :=
  (List.range 21).foldl (fun bb k => lfsrStep bb (d.getLsbD k)) 0#10

/-- `encode`: data in word bits 20:0, parity bit `j` (the coefficient of `x^j`) in word bit
`30 - j`, bit 31 zero (`41_bch.md` R123, R124). -/
def bchEncode (d : BitVec 21) : Word := 0#1 ++ ((bchParity d).reverse ++ d)

end Sys2Proof.Machine
end

