-- ==== Sys2Proof/Config.lean ====
section
/-! DEFINITION. The constants every instance shares (`00_scope.md` R7, R8), the sync-code values
(`30_encoding.md` R94) and the parameter `rnd` (`00_scope.md` R9). -/

namespace Sys2Proof.Config

/-- `FLEX_SYNC_MARKER` (`00_scope.md` R7). -/
def syncMarker : BitVec 32 := 0xA6C6AAAA#32

/-- `PHASE_WORDS` (`00_scope.md` R7). -/
def phaseWords : Nat := 88

/-- `SLICE_THRESHOLD`, exactly 667/1000 (`00_scope.md` R7). -/
def sliceThreshold : Analog := 667 / 1000

/-- `PHASE_LOCKED_RATE`, exactly 9/200 (`00_scope.md` R7). -/
def phaseLockedRate : Analog := 9 / 200

/-- `PHASE_UNLOCKED_RATE`, exactly 1/20 (`00_scope.md` R7). -/
def phaseUnlockedRate : Analog := 1 / 20

/-- The divisor of `sample_freq` that `DC_OFFSET_FILTER` = 1/100 seconds stands for
(`00_scope.md` R7, `42_demodulator.md` R152). -/
def dcFilterDivisor : Analog := 100

/-- `DEMOD_TIMEOUT` (`00_scope.md` R7). -/
def demodTimeout : Nat := 100

/-- `NONCONSEC_LIMIT` (`00_scope.md` R8). -/
def nonconsecLimit : Nat := 20

/-- The lock mask (`00_scope.md` R8). -/
def lockMask : BitVec 64 := 0x6666666666666666#64

/-- `FIW_DOTTING_BITS` (`00_scope.md` R7). -/
def fiwDottingBits : Nat := 16

/-- `FIW_TOTAL_BITS` (`00_scope.md` R7). -/
def fiwTotalBits : Nat := 48

/-- `SYNC2_DURATION_MS` (`00_scope.md` R7). -/
def sync2DurationMs : Nat := 25

/-- `DATA_DURATION_MS` (`00_scope.md` R7). -/
def dataDurationMs : Nat := 1760

/-- `IDLE_THRESHOLD` (`00_scope.md` R8). -/
def idleThreshold : Nat := 0

/-- The first sync code of the mode table (`30_encoding.md` R94). -/
def code870C : BitVec 16 := 0x870C#16

/-- The second sync code of the mode table (`30_encoding.md` R94). -/
def codeB068 : BitVec 16 := 0xB068#16

/-- The third sync code of the mode table (`30_encoding.md` R94). -/
def code7B18 : BitVec 16 := 0x7B18#16

/-- The fourth sync code of the mode table (`30_encoding.md` R94). -/
def codeDEA0 : BitVec 16 := 0xDEA0#16

/-- The fifth sync code of the mode table, as printed (`30_encoding.md` R94, R95,
`93_implementation_defined.md` U6). -/
def code4C7C : BitVec 16 := 0x4C7C#16

/-- The greatest Hamming distance at which a row of the mode table is selected
(`30_encoding.md` R94). -/
def codeTolerance : Nat := 3

/-- The parameter `rnd`, applied to the result of each arithmetic operation on `Num`. The value
for this hardware is the identity (`00_scope.md` R9, R13; `92_eei_decisions.md` D5). The
demodulator takes `rnd` as an argument, so a statement about it can be made for every `rnd`.
DESIGN CHOICE of the spec, taken over here (log entry 7): unsafe for a rounding datapath. -/
def rnd (q : Analog) : Analog := q

end Sys2Proof.Config
end

