-- ==== Sys2Proof/Syntax.lean ====
section
/-! DEFINITION. The instructions: one constructor for each row of `spec/opcode_table.json`, and
the words they are written in. -/

namespace Sys2Proof

/-- One row of the opcode table. The operands are the fields of the row's encoding; payload bits
the spec ignores are no operand (`30_encoding.md` R102, R104 (b); log entry 14). A row of
SYNCCODE16 carries the code as received, errors included (`43_synchronizer.md` R204). -/
inductive Instr where
  /-- CFG, `46_host_commands.md` R271. -/
  | cfg (sampleFreq : Word)
  /-- RST, R272. -/
  | rst
  /-- SMP, R273: the binary32 encoding of one sample. -/
  | smp (sample : Word)
  /-- SYM, R274. -/
  | sym (symbol : Symbol)
  /-- BCHFIX, R275. -/
  | bchfix (word : Word)
  /-- BCHENC, R276: 21 data bits. -/
  | bchenc (data : BitVec 21)
  /-- RDPB, R277. -/
  | rdpb (phase : Phase) (index : BitVec 7)
  /-- RDCSR, R278. -/
  | rdcsr (number : BitVec 8)
  /-- Opcode 0x0, R279. -/
  | illegal0
  /-- Opcode 0x9, R279. -/
  | illegal9
  /-- Opcode 0xA, R279. -/
  | illegalA
  /-- Opcode 0xB, R279. -/
  | illegalB
  /-- Opcode 0xC, R279. -/
  | illegalC
  /-- Opcode 0xD, R279. -/
  | illegalD
  /-- Opcode 0xE, R279. -/
  | illegalE
  /-- Opcode 0xF, R279. -/
  | illegalF
  /-- The row `0x870C` of `30_encoding.md` R94. -/
  | syncCode870C (code : BitVec 16)
  /-- The row `0xB068` of R94. -/
  | syncCodeB068 (code : BitVec 16)
  /-- The row `0x7B18` of R94. -/
  | syncCode7B18 (code : BitVec 16)
  /-- The row `0xDEA0` of R94. -/
  | syncCodeDEA0 (code : BitVec 16)
  /-- The row `0x4C7C` of R94. -/
  | syncCode4C7C (code : BitVec 16)
  /-- The default of `30_encoding.md` R95. -/
  | syncCodeUnknown (code : BitVec 16)
  /-- Symbol 0 of `30_encoding.md` R91. -/
  | symbol0
  /-- Symbol 1 of R91. -/
  | symbol1
  /-- Symbol 2 of R91. -/
  | symbol2
  /-- Symbol 3 of R91. -/
  | symbol3
  /-- State code 0 of `30_encoding.md` R108: the handler of `45_state_machine.md` R242. -/
  | stateSync1
  /-- State code 1: the handler of R243 to R245. -/
  | stateFiw
  /-- State code 2: the handler of R246. -/
  | stateSync2
  /-- State code 3: the handler of R247 and R248. -/
  | stateData
deriving DecidableEq, Repr

/-- A word in one of the opcode table's four formats (`30_encoding.md` R102): CMD36, SYNCCODE16,
SYMBOL2, STATE2. -/
inductive PortWord where
  /-- A 36-bit command word `{op, payload}` (`30_encoding.md` R101). -/
  | command (w : BitVec 36)
  /-- A 16-bit sync code (R94). -/
  | syncCode (c : BitVec 16)
  /-- A 2-bit symbol (R91). -/
  | symbol (q : Symbol)
  /-- A 2-bit state code (R108). -/
  | stateCode (c : BitVec 2)
deriving DecidableEq, Repr

/-- Whether the word is a host command, the only thing the host may submit (`00_scope.md` R5). -/
def PortWord.isCommand : PortWord → Bool
  | .command _ => true
  | .syncCode _ => false
  | .symbol _ => false
  | .stateCode _ => false

end Sys2Proof
end

