-- ==== Sys2Proof/WellFormed.lean ====
section
/-! DEFINITION. Which terms of `Instr` are instructions of the table. The operand types already
bound every field; what is left to check is that a SYNCCODE16 row holds a code that selects it
(`30_encoding.md` R94, R95). -/

namespace Sys2Proof

/-- A code within Hamming distance 3 of a row's code selects that row (`30_encoding.md` R94). -/
def selects (code row : BitVec 16) : Bool := decide (hamming code row ≤ Config.codeTolerance)

/-- A code that selects no row of the mode table (`30_encoding.md` R95). -/
def selectsNone (code : BitVec 16) : Bool :=
  !selects code Config.code870C && !selects code Config.codeB068 &&
    !selects code Config.code7B18 && !selects code Config.codeDEA0 &&
    !selects code Config.code4C7C

/-- Each SYNCCODE16 row holds a code that selects it; every other term is well formed. -/
def Instr.wellFormed : Instr → Bool
  | .syncCode870C c => selects c Config.code870C
  | .syncCodeB068 c => selects c Config.codeB068
  | .syncCode7B18 c => selects c Config.code7B18
  | .syncCodeDEA0 c => selects c Config.codeDEA0
  | .syncCode4C7C c => selects c Config.code4C7C
  | .syncCodeUnknown c => selectsNone c
  | .cfg _ => true
  | .rst => true
  | .smp _ => true
  | .sym _ => true
  | .bchfix _ => true
  | .bchenc _ => true
  | .rdpb _ _ => true
  | .rdcsr _ => true
  | .illegal0 => true
  | .illegal9 => true
  | .illegalA => true
  | .illegalB => true
  | .illegalC => true
  | .illegalD => true
  | .illegalE => true
  | .illegalF => true
  | .symbol0 => true
  | .symbol1 => true
  | .symbol2 => true
  | .symbol3 => true
  | .stateSync1 => true
  | .stateFiw => true
  | .stateSync2 => true
  | .stateData => true

end Sys2Proof
end

