-- ==== Sys2Proof/Decode.lean ====
section
/-! DEFINITION. The decoder and the encoder (`30_encoding.md`). The decoder is total on the words
of the four formats; laying raw bits out as such a word rejects what fits no format by name. -/

namespace Sys2Proof

/-- Why raw bits are no word of the opcode table. -/
inductive DecodeError where
  /-- No row of the table is this wide; raised by `portWordOfBits`. Safe: nothing is decoded. -/
  | unknownWidth (nbits : Nat)
  /-- Bits are set above the row's width; raised by `portWordOfBits`. Safe: nothing is decoded. -/
  | strayBits (nbits : Nat) (w : Nat)
deriving DecidableEq, Repr

/-- The phase that two bits of a PB address select (`20_memory.md` R71). -/
def phaseOfBits (v : BitVec 2) : Phase :=
  if v = 0#2 then .a else if v = 1#2 then .b else if v = 2#2 then .c else .d

/-- The two bits that select a phase (`20_memory.md` R71). -/
def phaseBits : Phase → BitVec 2
  | .a => 0#2
  | .b => 1#2
  | .c => 2#2
  | .d => 3#2

/-- A command word by its opcode, bits 35:32 (`30_encoding.md` R101, R102). -/
def decodeCommand (w : BitVec 36) : Instr :=
  match (w.extractLsb' 32 4).toNat with
  | 1 => .cfg (w.extractLsb' 0 32)
  | 2 => .rst
  | 3 => .smp (w.extractLsb' 0 32)
  | 4 => .sym (w.extractLsb' 0 2)
  | 5 => .bchfix (w.extractLsb' 0 32)
  | 6 => .bchenc (w.extractLsb' 0 21)
  | 7 => .rdpb (phaseOfBits (w.extractLsb' 7 2)) (w.extractLsb' 0 7)
  | 8 => .rdcsr (w.extractLsb' 0 8)
  | 9 => .illegal9
  | 10 => .illegalA
  | 11 => .illegalB
  | 12 => .illegalC
  | 13 => .illegalD
  | 14 => .illegalE
  | 15 => .illegalF
  | _ => .illegal0

/-- A received sync code selects the first row within distance 3, in the order printed
(`30_encoding.md` R94), or the default (R95). -/
def decodeSyncCode (c : BitVec 16) : Instr :=
  if selects c Config.code870C then .syncCode870C c
  else if selects c Config.codeB068 then .syncCodeB068 c
  else if selects c Config.code7B18 then .syncCode7B18 c
  else if selects c Config.codeDEA0 then .syncCodeDEA0 c
  else if selects c Config.code4C7C then .syncCode4C7C c
  else .syncCodeUnknown c

/-- The row of a symbol (`30_encoding.md` R91). -/
def decodeSymbolRow (q : Symbol) : Instr :=
  if q = 0#2 then .symbol0 else if q = 1#2 then .symbol1
  else if q = 2#2 then .symbol2 else .symbol3

/-- The row of a state code (`30_encoding.md` R108). -/
def decodeStateCode (c : BitVec 2) : Instr :=
  if c = 0#2 then .stateSync1 else if c = 1#2 then .stateFiw
  else if c = 2#2 then .stateSync2 else .stateData

/-- The decoder, total on the words of the four formats (`30_encoding.md` R102). -/
def decode : PortWord → Instr
  | .command w => decodeCommand w
  | .syncCode c => decodeSyncCode c
  | .symbol q => decodeSymbolRow q
  | .stateCode c => decodeStateCode c

/-- A command word: opcode in bits 35:32, payload in bits 31:0 (`30_encoding.md` R101). -/
def commandWord (op : BitVec 4) (payload : Word) : PortWord := .command (op ++ payload)

/-- The encoder: the word of an instruction, ignored payload bits written as 0
(`30_encoding.md` R101, R102). -/
def encode : Instr → PortWord
  | .cfg f => commandWord 0x1#4 f
  | .rst => commandWord 0x2#4 0#32
  | .smp v => commandWord 0x3#4 v
  | .sym q => commandWord 0x4#4 (0#30 ++ q)
  | .bchfix v => commandWord 0x5#4 v
  | .bchenc d => commandWord 0x6#4 (0#11 ++ d)
  | .rdpb p i => commandWord 0x7#4 (0#23 ++ (phaseBits p ++ i))
  | .rdcsr n => commandWord 0x8#4 (0#24 ++ n)
  | .illegal0 => commandWord 0x0#4 0#32
  | .illegal9 => commandWord 0x9#4 0#32
  | .illegalA => commandWord 0xA#4 0#32
  | .illegalB => commandWord 0xB#4 0#32
  | .illegalC => commandWord 0xC#4 0#32
  | .illegalD => commandWord 0xD#4 0#32
  | .illegalE => commandWord 0xE#4 0#32
  | .illegalF => commandWord 0xF#4 0#32
  | .syncCode870C c => .syncCode c
  | .syncCodeB068 c => .syncCode c
  | .syncCode7B18 c => .syncCode c
  | .syncCodeDEA0 c => .syncCode c
  | .syncCode4C7C c => .syncCode c
  | .syncCodeUnknown c => .syncCode c
  | .symbol0 => .symbol 0#2
  | .symbol1 => .symbol 1#2
  | .symbol2 => .symbol 2#2
  | .symbol3 => .symbol 3#2
  | .stateSync1 => .stateCode 0#2
  | .stateFiw => .stateCode 1#2
  | .stateSync2 => .stateCode 2#2
  | .stateData => .stateCode 3#2

/-- Raw bits, numbered as the opcode table numbers them, laid out as a word: up to 8 bits are a
2-bit word, up to 16 a sync code, up to 40 a command. A 2-bit word is read as a symbol, since
SYMBOL2 and STATE2 have the same words and nothing in the bits tells them apart: DESIGN CHOICE,
unsafe (log entry 4). Bits above the row's width must be 0 (log entry 17). -/
def portWordOfBits (nbits w : Nat) : Except DecodeError PortWord :=
  if nbits = 0 ∨ 40 < nbits then .error (.unknownWidth nbits)
  else if nbits ≤ 8 then
    (if w < 2 ^ 2 then .ok (.symbol (BitVec.ofNat 2 w)) else .error (.strayBits nbits w))
  else if nbits ≤ 16 then
    (if w < 2 ^ 16 then .ok (.syncCode (BitVec.ofNat 16 w)) else .error (.strayBits nbits w))
  else
    (if w < 2 ^ 36 then .ok (.command (BitVec.ofNat 36 w)) else .error (.strayBits nbits w))

/-- The instruction the decoder reads from an instruction whose bits are `w`. -/
def decodeTableWord (nbits w : Nat) : Option Instr :=
  match portWordOfBits nbits w with
  | .ok p => some (decode p)
  | .error _ => none

end Sys2Proof
end

