-- ==== Sys2Proof/Machine/State.lean ====
section
/-! DEFINITION. The state of one FLEXFE instance (`10_state.md` R20), the outcomes a step can stop
with, the response record and its events, and the state after power-on (R49). -/

namespace Sys2Proof.Machine

/-- Why the machine stops with a fault. The spec gives the block no stop of its own
(`00_scope.md` R6). -/
inductive Fault where
  /-- Raised by the collector (`symbolHandler` in state DATA, the row STATE_DATA) when the
  deinterleaving index is above 87, a phase-buffer word that does not exist (`20_memory.md` R71).
  No run of commands reaches it (`10_state.md` R53 (c)). Safe: the machine stops where the spec
  gives no effect (log entry 6). -/
  | noSuchPhaseWord (phase : Phase) (index : BitVec 7)
deriving DecidableEq, Repr

/-- Why the model gives an instruction no meaning. -/
inductive Refusal where
  /-- Raised by an arm of `exec` for an instruction without a meaning; no arm does. Safe. -/
  | notModelled (mnemonic : String)
deriving DecidableEq, Repr

/-- The failure categories and refusals of `60_exceptions.md` R290; `errorCodeNumber` gives their
codes 1 to 8, in this order. -/
inductive ErrorCode where
  | invalidConfiguration
  | bchUncorrectable
  | fiwChecksumMismatch
  | lockLoss
  | notConfigured
  | illegalCommand
  | badAddress
  | badOperand
deriving DecidableEq, Repr

/-- The causes of LOCK_LOST: 0 crossings, 1 timeout (`60_exceptions.md` R297); `lockLossCauseNumber`
gives the numbers. -/
inductive LockLossCause where
  | crossings
  | timeout
deriving DecidableEq, Repr

/-- The causes of FIW_REJECTED: 0 BCHUncorrectable, 1 FIWChecksumMismatch (R297);
`fiwRejectionNumber` gives the numbers. -/
inductive FiwRejection where
  | uncorrectable
  | checksum
deriving DecidableEq, Repr

/-- The event records of `60_exceptions.md` R297; `eventNumber` gives their codes 1 to 7. -/
inductive Event where
  | lockAcquired
  | lockLost (cause : LockLossCause)
  | syncFound (syncCode : BitVec 16) (baud : Baud) (levels : Levels) (polarity : Polarity)
      (known : Bool)
  | fiwAccepted (cycleNo : BitVec 4) (frameNo : BitVec 7) (word : Word) (errorsFixed : Nat)
  | fiwRejected (cause : FiwRejection) (word : Word)
  | frameReady (idle full : Bool) (baud : Baud) (levels : Levels) (polarity : Polarity)
      (cycleNo : BitVec 4) (frameNo : BitVec 7)
  | symbol (symbol : Symbol) (forwarded : Bool)
deriving DecidableEq, Repr

/-- The status of a response (`30_encoding.md` R103). -/
inductive Status where
  | ok
  | err (code : ErrorCode)
deriving DecidableEq, Repr

/-- The response of a command: `{status, value, aux, events}` (`30_encoding.md` R103). -/
structure Response where
  status : Status
  value : Word
  aux : BitVec 3
  events : List Event
deriving DecidableEq, Repr

/-- The four bits decoded from one symbol (`30_encoding.md` R91). -/
structure SymbolBits where
  bitA : Bool
  bitB : Bool
  syncBit : Bool
  lockPair : BitVec 2
deriving DecidableEq, Repr

/-- The demodulator's registers (`10_state.md` R22 to R33). `phase` is unbounded as
`93_implementation_defined.md` U2 says; the three sample and symbol counts are unbounded as
`70_reset_and_hazards.md` R335 allows (log entry 9). -/
structure Demod where
  baud : Baud
  phase : Int
  sampleCount : Nat
  symbolCount : Nat
  symbolRate : Analog
  zeroOffset : Analog
  envelope : Analog
  envelopeSum : Analog
  envelopeCount : Nat
  symCounts : Four (BitVec 32)
  lastSample : Analog
  locked : Bool
  lockBuffer : BitVec 64
  timeout : BitVec 8
  nonconsec : BitVec 8
  modalSymbol : Symbol
deriving DecidableEq, Repr

/-- The synchronizer's registers: `sync_buf` (`10_state.md` R34) and `sync_info` (R35). -/
structure Sync where
  syncBuf : BitVec 64
  syncCode : BitVec 32
  baud : Baud
  levels : Levels
  polarity : Polarity
deriving DecidableEq, Repr

/-- The frame state machine's registers (`10_state.md` R36 to R40). -/
structure Frame where
  state : FrameState
  fiwCount : BitVec 6
  fiwRaw : Word
  cycleNo : BitVec 4
  frameNo : BitVec 7
  sync2Count : BitVec 7
  dataCount : BitVec 13
deriving DecidableEq, Repr

/-- The phase-buffer memory (`10_state.md` R41): pairs of a word address (`20_memory.md` R71) and
the word there, in one canonical form (`Memory.wf`). An address not listed reads as 0, the word's
reset value (R49). Words, not bytes: the block has no byte order (`20_memory.md` R75; log
entry 5). -/
abbrev Memory := List (Nat × Word)

/-- The data collector's registers and memory (`10_state.md` R41 to R44). -/
structure Collector where
  pb : Memory
  idleCount : Four (BitVec 8)
  phaseToggle : Bool
  dataBitCounter : BitVec 12
deriving DecidableEq, Repr

/-- The state of the block: the registers of `10_state.md` R20 by sub-block, and the model's own
port. `pending` holds the words submitted and not yet taken, `response` the response of the last
command (log entry 2), `symbolIn` the symbol input of the STATE rows (log entry 3). -/
structure State where
  configured : Bool
  sampleFreq : Word
  demod : Demod
  sync : Sync
  frame : Frame
  coll : Collector
  pending : List PortWord
  response : Response
  symbolIn : SymbolBits
deriving DecidableEq, Repr

/-- The demodulator after any reset (`10_state.md` R49). -/
def Demod.reset : Demod :=
  { baud := .b1600
    phase := 0
    sampleCount := 0
    symbolCount := 0
    symbolRate := 0
    zeroOffset := 0
    envelope := 0
    envelopeSum := 0
    envelopeCount := 0
    symCounts := ⟨0#32, 0#32, 0#32, 0#32⟩
    lastSample := 0
    locked := false
    lockBuffer := 0#64
    timeout := 0#8
    nonconsec := 0#8
    modalSymbol := 0#2 }

/-- The synchronizer after any reset (`10_state.md` R49). -/
def Sync.reset : Sync :=
  { syncBuf := 0#64, syncCode := 0#32, baud := .b1600, levels := .two, polarity := .normal }

/-- The frame state machine after any reset (`10_state.md` R49). -/
def Frame.reset : Frame :=
  { state := .sync1
    fiwCount := 0#6
    fiwRaw := 0#32
    cycleNo := 0#4
    frameNo := 0#7
    sync2Count := 0#7
    dataCount := 0#13 }

/-- The data collector after any reset (`10_state.md` R49), and after the clear of
`44_collector.md` R228. -/
def Collector.reset : Collector :=
  { pb := []
    idleCount := ⟨0#8, 0#8, 0#8, 0#8⟩
    phaseToggle := false
    dataBitCounter := 0#12 }

/-- The response that carries nothing: status OK, value 0, aux 0, no events. -/
def Response.empty : Response := { status := .ok, value := 0#32, aux := 0#3, events := [] }

/-- The bits of symbol 0 at normal polarity (`30_encoding.md` R91), the model's own reset value of
`symbolIn` (log entry 3). -/
def SymbolBits.reset : SymbolBits :=
  { bitA := false, bitB := false, syncBit := true, lockPair := 1#2 }

/-- The block right after power-on (`10_state.md` R49; `70_reset_and_hazards.md` R320, R321). -/
def State.reset : State :=
  { configured := false
    sampleFreq := 0#32
    demod := Demod.reset
    sync := Sync.reset
    frame := Frame.reset
    coll := Collector.reset
    pending := []
    response := Response.empty
    symbolIn := SymbolBits.reset }

end Sys2Proof.Machine
end

