-- ==== Sys2Proof/Machine/Ops.lean ====
section
/-! DEFINITION. The named operations over the phase-buffer memory, the numbered files, the
response and the registers as a whole: refusing a command (`60_exceptions.md` R290, R296), emitting
an event (R297), resetting (`10_state.md` R49). The block has no handler and no return from one
(`60_exceptions.md` R300), so refusing is all of "taking an exception" there is. -/

namespace Sys2Proof.Machine

/-- Element `i` of a numbered file (`00_scope.md` R14). -/
def fourGet {α : Type} (f : Four α) (i : BitVec 2) : α :=
  if i = 0#2 then f.n0 else if i = 1#2 then f.n1 else if i = 2#2 then f.n2 else f.n3

/-- A numbered file with element `i` replaced (`00_scope.md` R14). -/
def fourSet {α : Type} (f : Four α) (i : BitVec 2) (v : α) : Four α :=
  if i = 0#2 then { f with n0 := v }
  else if i = 1#2 then { f with n1 := v }
  else if i = 2#2 then { f with n2 := v }
  else { f with n3 := v }

/-! ### The phase-buffer memory -/

/-- What an address that is not listed reads as: the reset value of a phase-buffer word
(`10_state.md` R49). -/
def unlistedWord : Word := 0#32

/-- Whether a phase buffer has a word of this index: 0 to 87 (`20_memory.md` R71). -/
def pbIndexExists (i : BitVec 7) : Bool := decide (i.toNat < Config.phaseWords)

/-- The 9-bit PB address: bits 8:7 the phase, bits 6:0 the index (`20_memory.md` R71). -/
def pbAddress (p : Phase) (i : BitVec 7) : Nat := (phaseBits p ++ i).toNat

/-- Whether the address is one of the 352 the memory has (`20_memory.md` R70, R71). -/
def addressExists (a : Nat) : Bool := decide (a < 512) && decide (a % 128 < Config.phaseWords)

/-- The canonical form: addresses strictly rising and existing, no entry equal to what an unlisted
address reads as. -/
def Memory.wf : Memory → Bool
  | [] => true
  | c :: rest =>
    addressExists c.1 && decide (c.2 ≠ unlistedWord) && rest.all (fun e => decide (c.1 < e.1)) &&
      Memory.wf rest

/-- The word at an address. -/
def memRead : Memory → Nat → Word
  | [], _ => unlistedWord
  | c :: rest, a => if a = c.1 then c.2 else memRead rest a

/-- An entry put in front of a memory, unless it is what an unlisted address reads as. -/
def memCons (a : Nat) (v : Word) (m : Memory) : Memory := if v = unlistedWord then m else (a, v) :: m

/-- The memory with one word written, in canonical form again. -/
def memWrite : Memory → Nat → Word → Memory
  | [], a, v => memCons a v []
  | c :: rest, a, v =>
    if a < c.1 then memCons a v (c :: rest)
    else if a = c.1 then memCons a v rest
    else c :: memWrite rest a v

/-- `MemRead(p, i)` (`00_scope.md` R14). -/
def pbRead (p : Phase) (i : BitVec 7) (s : State) : Word := memRead s.coll.pb (pbAddress p i)

/-- `MemWrite(p, i, v)` (`00_scope.md` R14). -/
def pbWrite (p : Phase) (i : BitVec 7) (v : Word) (s : State) : State :=
  { s with coll := { s.coll with pb := memWrite s.coll.pb (pbAddress p i) v } }

/-! ### The response -/

/-- A response begins with status OK, value 0, aux 0 and no events (`30_encoding.md` R103). -/
def beginResponse (s : State) : State := { s with response := Response.empty }

/-- `emit E(fields)`: append an event to the list of the command being executed
(`00_scope.md` R14). -/
def emit (e : Event) (s : State) : State :=
  { s with response := { s.response with events := s.response.events ++ [e] } }

/-- The response's 32-bit result (`30_encoding.md` R103). -/
def setValue (v : Word) (s : State) : State := { s with response := { s.response with value := v } }

/-- The response's second result (`30_encoding.md` R103). -/
def setAux (v : BitVec 3) (s : State) : State := { s with response := { s.response with aux := v } }

/-- An error response, no events, no change of any register (`00_scope.md` R6,
`60_exceptions.md` R290). `value` is the response's value: 0 for a refused command
(`30_encoding.md` R103), the payload for BCHFIX (`46_host_commands.md` R275). -/
def errorResponse (e : ErrorCode) (value : Word) (s : State) : State :=
  { s with response := { status := .err e, value := value, aux := 0#3, events := [] } }

/-- A refused command: the model's shared "exception entry". The block goes on with the next
command, so it is a next state (`00_scope.md` R6; log entry 1). -/
def refuse (e : ErrorCode) (s : State) : Host.Outcome State Fault Refusal :=
  .next (errorResponse e 0#32 s)

/-- A command that completes: the outcome of an internal operation, its state finished by `f`. -/
def complete (r : Except Fault State) (f : State → State) : Host.Outcome State Fault Refusal :=
  match r with
  | .ok s => .next (f s)
  | .error e => .fault e

/-! ### Reset -/

/-- Every register except `configured` and `sample_freq` takes its reset value (`10_state.md` R49,
`46_host_commands.md` R272). The words the host has submitted stay (log entry 2). -/
def resetRegisters (s : State) : State :=
  { s with
    demod := Demod.reset
    sync := Sync.reset
    frame := Frame.reset
    coll := Collector.reset
    symbolIn := SymbolBits.reset }

/-! ### Control transfer -/

/-- `state <- S` (`00_scope.md` R14). -/
def setFrameState (st : FrameState) (s : State) : State :=
  { s with frame := { s.frame with state := st } }

/-- A write of the demodulator's `baud` (`10_state.md` R22). -/
def setBaud (b : Baud) (s : State) : State := { s with demod := { s.demod with baud := b } }

end Sys2Proof.Machine
end

