-- ==== Sys2Proof/Machine/BchAccess.lean ====
section
/-! DEFINITION. The commands BCHFIX and BCHENC (`46_host_commands.md` R275, R276). -/

namespace Sys2Proof.Machine

/-- BCHFIX: the corrected word and `4 + errors_fixed`, or ERR(BCHUncorrectable) with the payload
as value (`46_host_commands.md` R275). -/
def execBchfix (word : Word) (s : State) : Host.Outcome State Fault Refusal :=
  match fixErrors word with
  | some (w, n) => .next (setAux (BitVec.ofNat 3 (4 + n)) (setValue w (beginResponse s)))
  | none => .next (errorResponse .bchUncorrectable word s)

/-- BCHENC: the codeword of 21 data bits (`46_host_commands.md` R276). -/
def execBchenc (data : BitVec 21) (s : State) : Host.Outcome State Fault Refusal :=
  .next (setValue (bchEncode data) (beginResponse s))

end Sys2Proof.Machine
end

