-- ==== Sys2Proof/Machine/Control.lean ====
section
/-! DEFINITION. The commands CFG and RST and the unassigned opcodes (`46_host_commands.md` R271,
R272, R279). -/

namespace Sys2Proof.Machine

/-- CFG: `sample_freq` and `configured` are written and every other register is reset; a rate of 0
is refused with InvalidConfiguration (`46_host_commands.md` R271). -/
def execCfg (sampleFreq : Word) (s : State) : Host.Outcome State Fault Refusal :=
  if sampleFreq = 0#32 then refuse .invalidConfiguration s
  else .next { beginResponse (resetRegisters s) with configured := true, sampleFreq := sampleFreq }

/-- RST: every register except `configured` and `sample_freq` is reset (`46_host_commands.md`
R272). -/
def execRst (s : State) : Host.Outcome State Fault Refusal :=
  .next (beginResponse (resetRegisters s))

/-- A command word with an unassigned opcode is refused with IllegalCommand
(`46_host_commands.md` R279). -/
def illegalCommand (s : State) : Host.Outcome State Fault Refusal := refuse .illegalCommand s

/-- Opcode 0x0 (`46_host_commands.md` R279). -/
def execIllegal0 (s : State) : Host.Outcome State Fault Refusal := illegalCommand s

/-- Opcode 0x9 (`46_host_commands.md` R279). -/
def execIllegal9 (s : State) : Host.Outcome State Fault Refusal := illegalCommand s

/-- Opcode 0xA (`46_host_commands.md` R279). -/
def execIllegalA (s : State) : Host.Outcome State Fault Refusal := illegalCommand s

/-- Opcode 0xB (`46_host_commands.md` R279). -/
def execIllegalB (s : State) : Host.Outcome State Fault Refusal := illegalCommand s

/-- Opcode 0xC (`46_host_commands.md` R279). -/
def execIllegalC (s : State) : Host.Outcome State Fault Refusal := illegalCommand s

/-- Opcode 0xD (`46_host_commands.md` R279). -/
def execIllegalD (s : State) : Host.Outcome State Fault Refusal := illegalCommand s

/-- Opcode 0xE (`46_host_commands.md` R279). -/
def execIllegalE (s : State) : Host.Outcome State Fault Refusal := illegalCommand s

/-- Opcode 0xF (`46_host_commands.md` R279). -/
def execIllegalF (s : State) : Host.Outcome State Fault Refusal := illegalCommand s

end Sys2Proof.Machine
end

