-- ==== Sys2Proof/Machine/Operands.lean ====
section
/-! DEFINITION. The operand forms: symbols, samples, the sync word's fields, the FIW's fields, the
deinterleaving index (`30_encoding.md` R91 to R99), the arithmetic on `Num` with its parameter `rnd`
(`00_scope.md` R13) and the numbers the named values, failures and events stand for. -/

namespace Sys2Proof.Machine

/-- Symbols per second (`00_scope.md` glossary, `10_state.md` R22). -/
def baudRate : Baud → Nat
  | .b1600 => 1600
  | .b3200 => 3200

/-- The number of a frame state (`30_encoding.md` R108). -/
def frameStateCode : FrameState → BitVec 2
  | .sync1 => 0#2
  | .fiw => 1#2
  | .sync2 => 2#2
  | .data => 3#2

/-! ### The codes of failures and events -/

/-- The code of a failure category or refusal (`60_exceptions.md` R290). -/
def errorCodeNumber : ErrorCode → Nat
  | .invalidConfiguration => 1
  | .bchUncorrectable => 2
  | .fiwChecksumMismatch => 3
  | .lockLoss => 4
  | .notConfigured => 5
  | .illegalCommand => 6
  | .badAddress => 7
  | .badOperand => 8

/-- The code of an event record (`60_exceptions.md` R297). -/
def eventNumber : Event → Nat
  | .lockAcquired => 1
  | .lockLost _ => 2
  | .syncFound _ _ _ _ _ => 3
  | .fiwAccepted _ _ _ _ => 4
  | .fiwRejected _ _ => 5
  | .frameReady _ _ _ _ _ _ _ => 6
  | .symbol _ _ => 7

/-- The number of a cause of LOCK_LOST (`60_exceptions.md` R297). -/
def lockLossCauseNumber : LockLossCause → Nat
  | .crossings => 0
  | .timeout => 1

/-- The number of a cause of FIW_REJECTED (`60_exceptions.md` R297). -/
def fiwRejectionNumber : FiwRejection → Nat
  | .uncorrectable => 0
  | .checksum => 1

/-! ### Arithmetic on `Num` (`00_scope.md` R13): each result is passed through `rnd` -/

/-- `a + b` on `Num`. -/
def numAdd (rnd : Analog → Analog) (a b : Analog) : Analog := rnd (a + b)

/-- `a - b` on `Num`. -/
def numSub (rnd : Analog → Analog) (a b : Analog) : Analog := rnd (a - b)

/-- `a * b` on `Num`. -/
def numMul (rnd : Analog → Analog) (a b : Analog) : Analog := rnd (a * b)

/-- `a / b` on `Num`. Every divisor of the rules is positive (`42_demodulator.md` R152, R153,
R159). -/
def numDiv (rnd : Analog → Analog) (a b : Analog) : Analog := rnd (a / b)

/-- `-a` on `Num`; taken as one of the operations of R13. DESIGN CHOICE (log entry 8). -/
def numNeg (rnd : Analog → Analog) (a : Analog) : Analog := rnd (-a)

/-- `abs(a)` on `Num`. -/
def numAbs (rnd : Analog → Analog) (a : Analog) : Analog := rnd |a|

/-- `trunc(q)`: the integer nearest `q` between `q` and 0 (`00_scope.md` R12). -/
def truncAnalog (q : Analog) : Int := q.num.tdiv q.den

/-! ### Samples (`30_encoding.md` R92) -/

/-- A sample is finite unless its exponent field is all ones (`46_host_commands.md` R273). -/
def sampleIsFinite (w : Word) : Bool := decide (w.extractLsb' 23 8 ≠ 0xFF#8)

/-- `(-1)^sign * m * 2^(e - 150)`: the value of a finite binary32 encoding, with `m` the fraction
and its leading 1, or, for exponent field 0, the fraction alone and `e` = 1. The layout is
`30_encoding.md` R92; the value is IEEE 754's, PRESUMED (log entry 12). -/
def sampleValue (w : Word) : Analog :=
  let field := (w.extractLsb' 23 8).toNat
  let fraction := (w.extractLsb' 0 23).toNat
  let m : Nat := if field = 0 then fraction else 2 ^ 23 + fraction
  let e : Nat := if field = 0 then 1 else field
  let magnitude : Analog :=
    if 150 ≤ e then ((m * 2 ^ (e - 150) : Nat) : Analog)
    else (m : Analog) / ((2 ^ (150 - e) : Nat) : Analog)
  if w.getLsbD 31 then -magnitude else magnitude

/-! ### Symbols (`30_encoding.md` R91) -/

/-- `rect(q)`: `3 - q` at inverted polarity, `q` otherwise (`43_synchronizer.md` R207). -/
def rectify (pol : Polarity) (q : Symbol) : Symbol :=
  match pol with
  | .inverted => 3#2 - q
  | .normal => q

/-- `bit_a` of a rectified symbol: `r > 1` (`44_collector.md` R220). -/
def symbolBitA (r : Symbol) : Bool := decide (1 < r.toNat)

/-- `bit_b` of a rectified symbol: `r = 1 or r = 2` (`44_collector.md` R220). -/
def symbolBitB (r : Symbol) : Bool := decide (r = 1#2 ∨ r = 2#2)

/-- The sync bit of a raw symbol: `1 if q < 2 else 0` (`43_synchronizer.md` R200). -/
def symbolSyncBit (q : Symbol) : Bool := decide (q.toNat < 2)

/-- The lock pair of a raw symbol: `q ^ 1` (`42_demodulator.md` R161). -/
def symbolLockPair (q : Symbol) : BitVec 2 := q ^^^ 1#2

/-- The four bits decoded from one symbol, `bit_a` and `bit_b` from the rectified symbol, the sync
bit and the lock pair from the raw one (`30_encoding.md` R91). -/
def decodeSymbol (pol : Polarity) (q : Symbol) : SymbolBits :=
  { bitA := symbolBitA (rectify pol q)
    bitB := symbolBitB (rectify pol q)
    syncBit := symbolSyncBit q
    lockPair := symbolLockPair q }

/-! ### Shift registers (`20_memory.md` R73, R74) -/

/-- `(w >> 1) | (bit << 31)`: a bit enters a collected word at the top (`20_memory.md` R73). -/
def shiftInTop (w : Word) (bit : Bool) : Word :=
  (w >>> 1) ||| (if bit then 0x80000000#32 else 0#32)

/-- `(b << 1) | bit`: a bit enters `sync_buf` at the bottom (`43_synchronizer.md` R200). -/
def shiftInBottom (b : BitVec 64) (bit : Bool) : BitVec 64 :=
  (b <<< 1) ||| (if bit then 1#64 else 0#64)

/-- `(b << 2) | pair`: a pair enters `lock_buffer` at the bottom (`42_demodulator.md` R161). -/
def shiftInPair (b : BitVec 64) (pair : BitVec 2) : BitVec 64 := (b <<< 2) ||| pair.setWidth 64

/-! ### The sync word (`43_synchronizer.md` R201) and the mode table (`30_encoding.md` R94) -/

/-- `marker = bits[47:16]`. -/
def markerField (b : BitVec 64) : BitVec 32 := b.extractLsb' 16 32

/-- `codehigh = bits[63:48]`. -/
def codeHigh (b : BitVec 64) : BitVec 16 := b.extractLsb' 48 16

/-- `codelow = ~bits[15:0]`. -/
def codeLow (b : BitVec 64) : BitVec 16 := ~~~(b.extractLsb' 0 16)

/-- The mode table, in the order printed (`30_encoding.md` R94). -/
def modeTable : List (BitVec 16 × Baud × Levels) :=
  [(Config.code870C, .b1600, .two), (Config.codeB068, .b1600, .four),
   (Config.code7B18, .b3200, .two), (Config.codeDEA0, .b3200, .four),
   (Config.code4C7C, .b3200, .four)]

/-- The mode of the first row the code selects, if any (`43_synchronizer.md` R205). -/
def knownMode (code : BitVec 16) : Option (Baud × Levels) :=
  (modeTable.find? (fun r => selects code r.1)).map (fun r => r.2)

/-- The mode of a code: its row's, or `{1600, 2}` (`43_synchronizer.md` R205, R206). -/
def modeOfCode (code : BitVec 16) : Baud × Levels := (knownMode code).getD (.b1600, .two)

/-! ### The FIW (`30_encoding.md` R96) -/

/-- `cycle_no`, bits 7:4. -/
def fiwCycle (w : Word) : BitVec 4 := w.extractLsb' 4 4

/-- `frame_no`, bits 14:8. -/
def fiwFrame (w : Word) : BitVec 7 := w.extractLsb' 8 7

/-! ### The deinterleaving index (`30_encoding.md` R99, `44_collector.md` R222) -/

/-- `idx = ((c >> 5) & 0xFFF8) | (c & 0x0007)`, a 7-bit value. -/
def deinterleaveIndex (c : BitVec 12) : BitVec 7 :=
  (((c >>> 5) &&& 0xFF8#12) ||| (c &&& 0x007#12)).setWidth 7

end Sys2Proof.Machine
end

