-- ==== Sys2Proof/Machine/Flags.lean ====
section
/-! DEFINITION. Every predicate and flag computation the rules make: the window and crossing tests,
the lock pattern, the sync acceptance test, the FIW checksum, the idle tests and the durations. -/

namespace Sys2Proof.Machine

/-! ### The demodulator's tests (`42_demodulator.md`) -/

/-- What step 1 computes from `sample_freq`, `baud` and `phase` on entry, fixed for the whole
command (`42_demodulator.md` R151). -/
structure SampleTiming where
  phaseMax : Int
  phaseRate : Int
  ph0 : Int
  inMid : Bool
  firstHalf : Bool
deriving DecidableEq, Repr

/-- `10 < pct < 90`, exactly on integers (`42_demodulator.md` R151). -/
def inMidWindow (phaseMax ph0 : Int) : Bool :=
  decide (phaseMax < 10 * ph0) && decide (10 * ph0 < 9 * phaseMax)

/-- `pct < 50`, exactly on integers (`42_demodulator.md` R151). -/
def inFirstHalf (phaseMax ph0 : Int) : Bool := decide (2 * ph0 < phaseMax)

/-- `phase_max = 100 * sample_freq` (`42_demodulator.md` R151). -/
def phaseMaxOf (sampleFreq : Word) : Int := 100 * (sampleFreq.toNat : Int)

/-- `phase_rate = 100 * baud` (`42_demodulator.md` R151). -/
def phaseRateOf (b : Baud) : Int := 100 * (baudRate b : Int)

/-- Step 1 (`42_demodulator.md` R151). -/
def sampleTiming (s : State) : SampleTiming :=
  { phaseMax := phaseMaxOf s.sampleFreq
    phaseRate := phaseRateOf s.demod.baud
    ph0 := s.demod.phase
    inMid := inMidWindow (phaseMaxOf s.sampleFreq) s.demod.phase
    firstHalf := inFirstHalf (phaseMaxOf s.sampleFreq) s.demod.phase }

/-- A change of the predicate "less than zero" between two samples (`42_demodulator.md` R155). -/
def isCrossing (last x : Analog) : Bool := decide (last < 0) != decide (x < 0)

/-- The slicer's level of a DC-corrected sample (`42_demodulator.md` R154). -/
def sliceLevel (rnd : Analog → Analog) (envelope x : Analog) : Symbol :=
  let t := numMul rnd Config.sliceThreshold envelope
  if t < x then 3#2
  else if 0 < x ∧ x ≤ t then 2#2
  else if numNeg rnd t < x ∧ x ≤ 0 then 1#2
  else 0#2

/-- `argmax sym_counts`: the least level whose counter is the greatest (`42_demodulator.md`
R158). -/
def argmaxCounts (c : Four (BitVec 32)) : Symbol :=
  if c.n1 ≤ c.n0 ∧ c.n2 ≤ c.n0 ∧ c.n3 ≤ c.n0 then 0#2
  else if c.n2 ≤ c.n1 ∧ c.n3 ≤ c.n1 then 1#2
  else if c.n3 ≤ c.n2 then 2#2
  else 3#2

/-- The lock pattern on the low 48 bits of `lock_buffer` (`30_encoding.md` R100,
`42_demodulator.md` R161). -/
def isLockPattern (buffer : BitVec 64) : Bool :=
  let v := (buffer ^^^ Config.lockMask).extractLsb' 0 48
  decide (v = 0#48 ∨ v = 0xFFFFFFFFFFFF#48)

/-! ### The synchronizer's test (`43_synchronizer.md` R202) -/

/-- `accept(b)`: fewer than 4 wrong marker bits and fewer than 4 disagreements of the two copies
of the code. -/
def acceptsSync (b : BitVec 64) : Bool :=
  decide (hamming (markerField b) Config.syncMarker < 4) &&
    decide (hamming (codeHigh b) (codeLow b) < 4)

/-! ### The FIW checksum (`30_encoding.md` R97) -/

/-- The nibble sum of the 21 used bits, modulo 16. -/
def nibbleSum (w : Word) : BitVec 4 :=
  w.extractLsb' 0 4 + w.extractLsb' 4 4 + w.extractLsb' 8 4 + w.extractLsb' 12 4 +
    w.extractLsb' 16 4 + (w.extractLsb' 20 1).setWidth 4

/-- The FIW passes if the sum is 15. -/
def fiwChecksumPasses (w : Word) : Bool := decide (nibbleSum w = 15#4)

/-! ### The durations (`45_state_machine.md` R246, R247, R251) -/

/-- `sync_info.baud * 25 / 1000`: 40 or 80. -/
def sync2Symbols (b : Baud) : Nat := baudRate b * Config.sync2DurationMs / 1000

/-- `sync_info.baud * 1760 / 1000`: 2816 or 5632. -/
def dataSymbols (b : Baud) : Nat := baudRate b * Config.dataDurationMs / 1000

/-! ### The collector's tests (`44_collector.md`) -/

/-- An idle word: all zeros or all ones (`44_collector.md` R225). -/
def isIdleWord (w : Word) : Bool := decide (w = 0x00000000#32 ∨ w = 0xFFFFFFFF#32)

/-- The idle-check points: `(c & 0xFF) = 0xFF` (`44_collector.md` R225). -/
def isIdleCheckPoint (c : BitVec 12) : Bool := decide (c &&& 0x0FF#12 = 0x0FF#12)

/-- The phases a mode fills (`44_collector.md` R227). -/
def activePhases : Baud → Levels → List Phase
  | .b1600, .two => [.a]
  | .b1600, .four => [.a, .b]
  | .b3200, .two => [.a, .c]
  | .b3200, .four => [.a, .b, .c, .d]

/-- "All active phases idle": every active phase has `idle_count > IDLE_THRESHOLD`
(`44_collector.md` R227). -/
def allActiveIdle (s : State) : Bool :=
  (activePhases s.sync.baud s.sync.levels).all
    (fun p => decide (Config.idleThreshold < (fourGet s.coll.idleCount (phaseBits p)).toNat))

end Sys2Proof.Machine
end

