-- ==== Sys2Proof/Machine/Collector.lean ====
section
/-! DEFINITION. The data collector (`44_collector.md`): one step for one rectified data symbol, and
the clear. -/

namespace Sys2Proof.Machine

/-- The write of `phase_toggle`. -/
def setToggle (t : Bool) (s : State) : State :=
  { s with coll := { s.coll with phaseToggle := t } }

/-- The toggle is pinned to 0 at 1600 baud (`44_collector.md` R221). -/
def pinToggle (s : State) : State :=
  match s.sync.baud with
  | .b1600 => setToggle false s
  | .b3200 => s

/-- The phases a step writes, by the toggle and the levels (`44_collector.md` R223, R224). -/
def writtenPhases (toggle : Bool) (l : Levels) : List Phase :=
  match toggle, l with
  | false, .two => [.a]
  | false, .four => [.a, .b]
  | true, .two => [.c]
  | true, .four => [.c, .d]

/-- "Shift into MSB" of one phase-buffer word (`44_collector.md` R223). -/
def shiftIntoWord (p : Phase) (i : BitVec 7) (bit : Bool) (s : State) : State :=
  pbWrite p i (shiftInTop (pbRead p i s) bit) s

/-- The write of a step: `bit_a`, and with 4 levels `bit_b`, to A and B or to C and D
(`44_collector.md` R223, R224). -/
def writeBits (d : SymbolBits) (s : State) : State :=
  let i := deinterleaveIndex s.coll.dataBitCounter
  match s.coll.phaseToggle, s.sync.levels with
  | false, .two => shiftIntoWord .a i d.bitA s
  | false, .four => shiftIntoWord .b i d.bitB (shiftIntoWord .a i d.bitA s)
  | true, .two => shiftIntoWord .c i d.bitA s
  | true, .four => shiftIntoWord .d i d.bitB (shiftIntoWord .c i d.bitA s)

/-- `idle_count[p]` goes up when the phase's word is idle (`44_collector.md` R225). -/
def countIdleWord (i : BitVec 7) (s : State) (p : Phase) : State :=
  if isIdleWord (pbRead p i s) then
    { s with
      coll :=
        { s.coll with
          idleCount :=
            fourSet s.coll.idleCount (phaseBits p)
              (fourGet s.coll.idleCount (phaseBits p) + 1#8) } }
  else s

/-- The idle check on the words just written, at the idle-check points (`44_collector.md` R225). -/
def checkIdle (s : State) : State :=
  if isIdleCheckPoint s.coll.dataBitCounter then
    (writtenPhases s.coll.phaseToggle s.sync.levels).foldl
      (countIdleWord (deinterleaveIndex s.coll.dataBitCounter)) s
  else s

/-- The toggle's update after the idle check (`44_collector.md` R223, R224, R229). -/
def updateToggle (s : State) : State :=
  match s.coll.phaseToggle, s.sync.baud with
  | false, .b1600 => s
  | false, .b3200 => setToggle true s
  | true, _ => setToggle false s

/-- `data_bit_counter` goes up at 1600 baud, and at 3200 when the toggle is back at 0
(`44_collector.md` R226). -/
def advanceBitCounter (s : State) : State :=
  if s.sync.baud = .b1600 ∨ s.coll.phaseToggle = false then
    { s with coll := { s.coll with dataBitCounter := s.coll.dataBitCounter + 1#12 } }
  else s

/-- The sub-steps of a collector step, in the order of `44_collector.md` R229. -/
def collectSteps (d : SymbolBits) (s : State) : State :=
  advanceBitCounter (updateToggle (checkIdle (writeBits d (pinToggle s))))

/-- One collector step (`44_collector.md` R229). An index above 87 is a word that does not exist
(`20_memory.md` R71): a fault, in states no run of commands reaches (log entry 6). -/
def collect (d : SymbolBits) (s : State) : Except Fault State :=
  if pbIndexExists (deinterleaveIndex s.coll.dataBitCounter) then .ok (collectSteps d s)
  else
    .error
      (.noSuchPhaseWord (if (pinToggle s).coll.phaseToggle then .c else .a)
        (deinterleaveIndex s.coll.dataBitCounter))

/-- The clear on the transition SYNC2 to DATA: all words, all idle counters, the toggle and the bit
counter become 0 (`44_collector.md` R228). -/
def clearCollector (s : State) : State := { s with coll := Collector.reset }

end Sys2Proof.Machine
end

