-- ==== Sys2Proof/Machine/Synchronizer.lean ====
section
/-! DEFINITION. The synchronizer (`43_synchronizer.md`): the rolling buffer, the match at either
polarity and the mode decode. -/

namespace Sys2Proof.Machine

/-- The rolling buffer takes the symbol's sync bit (`43_synchronizer.md` R200). -/
def shiftSyncBuf (bit : Bool) (s : State) : State :=
  { s with sync := { s.sync with syncBuf := shiftInBottom s.sync.syncBuf bit } }

/-- The match: the polarity found and the buffer value on which it succeeded
(`43_synchronizer.md` R203). -/
def matchSync (buffer : BitVec 64) : Option (Polarity × BitVec 64) :=
  if acceptsSync buffer then some (.normal, buffer)
  else if acceptsSync (~~~buffer) then some (.inverted, ~~~buffer)
  else none

/-- A code received at a sync match is recorded with the mode it selects (`43_synchronizer.md`
R204, R205, R206). -/
def recordMode (code : BitVec 16) (b : Baud) (l : Levels) (s : State) : State :=
  { s with sync := { s.sync with syncCode := code.setWidth 32, baud := b, levels := l } }

/-- The polarity found (`43_synchronizer.md` R203). -/
def recordPolarity (pol : Polarity) (s : State) : State :=
  { s with sync := { s.sync with polarity := pol } }

/-- What a match writes: the polarity, the code and its mode (`43_synchronizer.md` R203 to
R206). -/
def recordMatch (pol : Polarity) (b : BitVec 64) (s : State) : State :=
  recordMode (codeHigh b) (modeOfCode (codeHigh b)).1 (modeOfCode (codeHigh b)).2
    (recordPolarity pol s)

end Sys2Proof.Machine
end

