-- ==== Sys2Proof/Machine/FrameMachine.lean ====
section
/-! DEFINITION. The frame state machine (`45_state_machine.md`): the four handlers and the symbol
handler that dispatches to them. A handler takes the four bits decoded from its symbol
(`30_encoding.md` R91): SYNC1 uses the sync bit, FIW `bit_a`, DATA `bit_a` and `bit_b`, SYNC2
none. -/

namespace Sys2Proof.Machine

/-! ### SYNC1 (`45_state_machine.md` R242) -/

/-- The event of a match: the code as received, the mode recorded and whether a table row was
selected. -/
def syncFoundEvent (b : BitVec 64) (s : State) : Event :=
  .syncFound (codeHigh b) s.sync.baud s.sync.levels s.sync.polarity (knownMode (codeHigh b)).isSome

/-- `fiw_count <- 0 ; fiw_raw <- 0 ; state <- FIW`. -/
def startFiw (s : State) : State :=
  { s with frame := { s.frame with fiwCount := 0#6, fiwRaw := 0#32, state := .fiw } }

/-- The handler of state SYNC1 (`45_state_machine.md` R242). -/
def handleSync1 (d : SymbolBits) (s : State) : State :=
  let s := shiftSyncBuf d.syncBit s
  match matchSync s.sync.syncBuf with
  | some (pol, b) =>
    let s := recordMatch pol b s
    startFiw (emit (syncFoundEvent b s) s)
  | none => s

/-! ### FIW (`45_state_machine.md` R243 to R245) -/

/-- `fiw_count <- fiw_count + 1`, and after the dotting the bit enters `fiw_raw`
(`45_state_machine.md` R243). -/
def shiftFiw (d : SymbolBits) (s : State) : State :=
  let count := s.frame.fiwCount + 1#6
  { s with
    frame :=
      { s.frame with
        fiwCount := count
        fiwRaw :=
          if Config.fiwDottingBits < count.toNat then shiftInTop s.frame.fiwRaw d.bitA
          else s.frame.fiwRaw } }

/-- The write of `fiw_raw`. -/
def setFiwRaw (w : Word) (s : State) : State := { s with frame := { s.frame with fiwRaw := w } }

/-- A rejected FIW: the event, and `state <- SYNC1`, which writes `state` only
(`45_state_machine.md` R244). -/
def rejectFiw (cause : FiwRejection) (w : Word) (s : State) : State :=
  setFrameState .sync1 (emit (.fiwRejected cause w) s)

/-- An accepted FIW (`45_state_machine.md` R245). -/
def acceptFiw (w : Word) (n : Nat) (s : State) : State :=
  let s :=
    { s with frame := { s.frame with cycleNo := fiwCycle w, frameNo := fiwFrame w } }
  let s := setBaud s.sync.baud (emit (.fiwAccepted (fiwCycle w) (fiwFrame w) w n) s)
  { s with frame := { s.frame with sync2Count := 0#7, state := .sync2 } }

/-- The check at `fiw_count = 48` (`45_state_machine.md` R244). -/
def checkFiw (s : State) : State :=
  match fixErrors s.frame.fiwRaw with
  | none => rejectFiw .uncorrectable s.frame.fiwRaw s
  | some (w, n) =>
    let s := setFiwRaw w s
    if fiwChecksumPasses w then acceptFiw w n s else rejectFiw .checksum w s

/-- The handler of state FIW (`45_state_machine.md` R243 to R245). -/
def handleFiw (d : SymbolBits) (s : State) : State :=
  let s := shiftFiw d s
  if s.frame.fiwCount.toNat = Config.fiwTotalBits then checkFiw s else s

/-! ### SYNC2 (`45_state_machine.md` R246) -/

/-- `data_count <- 0 ; state <- DATA`, after the clear. -/
def startData (s : State) : State :=
  let s := clearCollector s
  { s with frame := { s.frame with dataCount := 0#13, state := .data } }

/-- The handler of state SYNC2: the symbol's value is ignored (`45_state_machine.md` R246). -/
def handleSync2 (s : State) : State :=
  let s := { s with frame := { s.frame with sync2Count := s.frame.sync2Count + 1#7 } }
  if s.frame.sync2Count.toNat = sync2Symbols s.sync.baud then startData s else s

/-! ### DATA (`45_state_machine.md` R247, R248) -/

/-- The event of a frame's end (`45_state_machine.md` R248). -/
def frameReadyEvent (idle full : Bool) (s : State) : Event :=
  .frameReady idle full s.sync.baud s.sync.levels s.sync.polarity s.frame.cycleNo s.frame.frameNo

/-- The end of a frame (`45_state_machine.md` R248). -/
def endFrame (idle full : Bool) (s : State) : State :=
  setFrameState .sync1 (setBaud .b1600 (emit (frameReadyEvent idle full s) s))

/-- What follows the collector step in state DATA (`45_state_machine.md` R247). -/
def countData (s : State) : State :=
  let s := { s with frame := { s.frame with dataCount := s.frame.dataCount + 1#13 } }
  let full := decide (s.frame.dataCount.toNat = dataSymbols s.sync.baud)
  let idle := allActiveIdle s
  if full || idle then endFrame idle full s else s

/-- The handler of state DATA (`45_state_machine.md` R247, R248). -/
def handleData (d : SymbolBits) (s : State) : Except Fault State :=
  match collect d s with
  | .ok s' => .ok (countData s')
  | .error e => .error e

/-! ### Dispatch (`45_state_machine.md` R240, R241) -/

/-- The handler of a state value, on the bits of one symbol (`45_state_machine.md` R240). -/
def handlerOf (st : FrameState) (d : SymbolBits) (s : State) : Except Fault State :=
  match st with
  | .sync1 => .ok (handleSync1 d s)
  | .fiw => .ok (handleFiw d s)
  | .sync2 => .ok (handleSync2 s)
  | .data => handleData d s

/-- The symbol handler: the symbol is rectified by the polarity on entry, then the handler of the
state on entry runs (`45_state_machine.md` R240, R241). -/
def symbolHandler (q : Symbol) (s : State) : Except Fault State :=
  handlerOf s.frame.state (decodeSymbol s.sync.polarity q) s

end Sys2Proof.Machine
end

