-- ==== Sys2Proof/Machine/Demodulator.lean ====
section
/-! DEFINITION. The demodulator (`42_demodulator.md`): the per-sample step and the symbol-complete
sequence, for any `rnd` (`00_scope.md` R9, R13). -/

namespace Sys2Proof.Machine

/-! ### The per-sample steps -/

/-- `F = sample_freq / 100` (`42_demodulator.md` R152). -/
def dcFilterLength (rnd : Analog → Analog) (sampleFreq : Word) : Analog :=
  numDiv rnd (sampleFreq.toNat : Analog) Config.dcFilterDivisor

/-- `(zero_offset * F + s) / (F + 1)` (`42_demodulator.md` R152). -/
def filteredOffset (rnd : Analog → Analog) (sampleFreq : Word) (zeroOffset v : Analog) : Analog :=
  let f := dcFilterLength rnd sampleFreq
  numDiv rnd (numAdd rnd (numMul rnd zeroOffset f) v) (numAdd rnd f 1)

/-- Step 2: count the sample and, in SYNC1, update the DC estimate (`42_demodulator.md` R152). -/
def filterDc (rnd : Analog → Analog) (v : Analog) (s : State) : State :=
  { s with
    demod :=
      { s.demod with
        sampleCount := s.demod.sampleCount + 1
        zeroOffset :=
          if s.frame.state = .sync1 then filteredOffset rnd s.sampleFreq s.demod.zeroOffset v
          else s.demod.zeroOffset } }

/-- The DC-corrected sample, with the updated offset (`42_demodulator.md` R152). -/
def dcCorrected (rnd : Analog → Analog) (v : Analog) (s : State) : Analog :=
  numSub rnd v s.demod.zeroOffset

/-- The envelope's update while locked in SYNC1 (`42_demodulator.md` R153). -/
def updateEnvelope (rnd : Analog → Analog) (x : Analog) (s : State) : State :=
  let sum := numAdd rnd s.demod.envelopeSum (numAbs rnd x)
  let count := s.demod.envelopeCount + 1
  { s with
    demod :=
      { s.demod with
        envelopeSum := sum
        envelopeCount := count
        envelope := numDiv rnd sum (count : Analog) } }

/-- The unlocked reset (`42_demodulator.md` R153): of the state machine it writes `state` only. -/
def unlockedReset (s : State) : State :=
  setFrameState .sync1
    { s with
      demod :=
        { s.demod with
          envelope := 0
          envelopeSum := 0
          envelopeCount := 0
          baud := .b1600
          timeout := 0#8
          nonconsec := 0#8 } }

/-- Step 3 (`42_demodulator.md` R153). -/
def trackEnvelope (rnd : Analog → Analog) (x : Analog) (s : State) : State :=
  if s.demod.locked then
    (if s.frame.state = .sync1 then updateEnvelope rnd x s else s)
  else unlockedReset s

/-- Step 4, the slicer (`42_demodulator.md` R154). -/
def countLevel (rnd : Analog → Analog) (t : SampleTiming) (x : Analog) (s : State) : State :=
  if t.inMid then
    let k := sliceLevel rnd s.demod.envelope x
    { s with
      demod :=
        { s.demod with
          symCounts := fourSet s.demod.symCounts k (fourGet s.demod.symCounts k + 1#32) } }
  else s

/-- `trunc(ph0 - err * rate)` (`42_demodulator.md` R155). -/
def correctedPhase (t : SampleTiming) (locked : Bool) : Int :=
  let err := if t.firstHalf then t.ph0 else t.ph0 - t.phaseMax
  let rate := if locked then Config.phaseLockedRate else Config.phaseUnlockedRate
  truncAnalog ((t.ph0 : Analog) - (err : Analog) * rate)

/-- Dropping lock writes `locked` only, with its event (`42_demodulator.md` R156, R162). -/
def dropLock (cause : LockLossCause) (s : State) : State :=
  let s := emit (.lockLost cause) s
  { s with demod := { s.demod with locked := false } }

/-- The write of `nonconsec`. -/
def setNonconsec (n : BitVec 8) (s : State) : State :=
  { s with demod := { s.demod with nonconsec := n } }

/-- Step 5 continued: crossings inside the mid-symbol window (`42_demodulator.md` R156). -/
def countCrossing (t : SampleTiming) (s : State) : State :=
  if t.inMid then
    let s := setNonconsec (s.demod.nonconsec + 1#8) s
    if s.demod.locked ∧ Config.nonconsecLimit ≤ s.demod.nonconsec.toNat then dropLock .crossings s
    else s
  else setNonconsec 0#8 s

/-- What a zero crossing does: the phase correction, the window count, `timeout <- 0`
(`42_demodulator.md` R155). -/
def handleCrossing (t : SampleTiming) (s : State) : State :=
  let s := { s with demod := { s.demod with phase := correctedPhase t s.demod.locked } }
  let s := countCrossing t s
  { s with demod := { s.demod with timeout := 0#8 } }

/-- Step 5 (`42_demodulator.md` R155). -/
def trackCrossing (t : SampleTiming) (x : Analog) (s : State) : State :=
  let s := if isCrossing s.demod.lastSample x then handleCrossing t s else s
  { s with demod := { s.demod with lastSample := x } }

/-- Whether step 6 completes the symbol period: the comparison is strict (`42_demodulator.md`
R157). -/
def periodCompletes (t : SampleTiming) (s : State) : Bool :=
  decide (t.phaseMax < s.demod.phase + t.phaseRate)

/-- Step 6 (`42_demodulator.md` R157). -/
def advancePhase (t : SampleTiming) (s : State) : State :=
  let p := s.demod.phase + t.phaseRate
  { s with demod := { s.demod with phase := if t.phaseMax < p then p - t.phaseMax else p } }

/-- Steps 2 to 5 of one sample, with the timing of step 1 (`42_demodulator.md` R150). -/
def sampleSteps (rnd : Analog → Analog) (t : SampleTiming) (v : Analog) (s : State) : State :=
  let s := filterDc rnd v s
  let x := dcCorrected rnd v s
  trackCrossing t x (countLevel rnd t x (trackEnvelope rnd x s))

/-! ### The symbol-complete sequence -/

/-- The modal symbol is decided, the counters cleared, the event emitted (`42_demodulator.md`
R158). -/
def decideSymbol (s : State) : State :=
  let m := argmaxCounts s.demod.symCounts
  emit (.symbol m s.demod.locked)
    { s with
      demod :=
        { s.demod with modalSymbol := m, symCounts := ⟨0#32, 0#32, 0#32, 0#32⟩ } }

/-- The symbol-rate estimate (`42_demodulator.md` R159). The product is of integers, exact
(`00_scope.md` R12; log entry 8). -/
def estimateRate (rnd : Analog → Analog) (s : State) : State :=
  let count := s.demod.symbolCount + 1
  { s with
    demod :=
      { s.demod with
        symbolCount := count
        symbolRate :=
          numDiv rnd ((count * s.sampleFreq.toNat : Nat) : Analog) (s.demod.sampleCount : Analog) } }

/-- What acquiring lock does (`42_demodulator.md` R161). -/
def acquireLock (s : State) : State :=
  emit .lockAcquired
    { s with
      demod :=
        { s.demod with locked := true, lockBuffer := 0#64, sampleCount := 0, symbolCount := 0 } }

/-- The lock detector (`42_demodulator.md` R161). -/
def detectLock (s : State) : State :=
  let s :=
    { s with
      demod :=
        { s.demod with
          lockBuffer := shiftInPair s.demod.lockBuffer (symbolLockPair s.demod.modalSymbol) } }
  if isLockPattern s.demod.lockBuffer then acquireLock s else s

/-- The symbol goes to the state machine while locked, else to the lock detector
(`42_demodulator.md` R160, R161). -/
def routeSymbol (s : State) : Except Fault State :=
  if s.demod.locked then symbolHandler s.demod.modalSymbol s else .ok (detectLock s)

/-- The timeout (`42_demodulator.md` R162). -/
def countTimeout (s : State) : State :=
  let s := { s with demod := { s.demod with timeout := s.demod.timeout + 1#8 } }
  if Config.demodTimeout < s.demod.timeout.toNat then
    (if s.demod.locked then dropLock .timeout s else s)
  else s

/-- The symbol-complete sequence (`42_demodulator.md` R150, R158 to R162). -/
def completeSymbol (rnd : Analog → Analog) (s : State) : Except Fault State :=
  match routeSymbol (estimateRate rnd (decideSymbol s)) with
  | .ok s' => .ok (countTimeout s')
  | .error e => .error e

/-! ### One sample -/

/-- The demodulator's step for one sample of value `v`, on a state whose response has begun: the
state after it and the `completed` bit (`42_demodulator.md` R150). -/
def demodulate (rnd : Analog → Analog) (v : Analog) (s : State) : Except Fault (State × Bool) :=
  let t := sampleTiming s
  let s := sampleSteps rnd t v s
  let completed := periodCompletes t s
  let s := advancePhase t s
  if completed then
    match completeSymbol rnd s with
    | .ok s' => .ok (s', true)
    | .error e => .error e
  else .ok (s, false)

end Sys2Proof.Machine
end

