-- ==== Sys2Proof/Machine/DataPath.lean ====
section
/-! DEFINITION. The commands SMP and SYM (`46_host_commands.md` R273, R274). Their checks are made
in the order opcode, `configured`, operand (`60_exceptions.md` R296). -/

namespace Sys2Proof.Machine

/-- The value of SMP's response: bit 0 `completed`, bits 2:1 `modal_symbol`, bit 3 `locked`, both
after the command (`46_host_commands.md` R273). -/
def sampleValueBits (completed : Bool) (s : State) : Word :=
  (BitVec.ofBool s.demod.locked ++ (s.demod.modalSymbol ++ BitVec.ofBool completed)).setWidth 32

/-- The value of SYM's response: bits 1:0 `state` after the command (`46_host_commands.md`
R274). -/
def symbolValueBits (s : State) : Word := (frameStateCode s.frame.state).setWidth 32

/-- SMP (`46_host_commands.md` R273). -/
def execSmp (sample : Word) (s : State) : Host.Outcome State Fault Refusal :=
  if s.configured = false then refuse .notConfigured s
  else if sampleIsFinite sample = false then refuse .badOperand s
  else
    match demodulate Config.rnd (sampleValue sample) (beginResponse s) with
    | .ok (s', completed) => .next (setValue (sampleValueBits completed s') s')
    | .error e => .fault e

/-- SYM (`46_host_commands.md` R274). -/
def execSym (q : Symbol) (s : State) : Host.Outcome State Fault Refusal :=
  if s.configured = false then refuse .notConfigured s
  else complete (symbolHandler q (beginResponse s)) (fun s' => setValue (symbolValueBits s') s')

end Sys2Proof.Machine
end

