-- ==== Sys2Proof/Machine/ReadAccess.lean ====
section
/-! DEFINITION. The commands RDPB and RDCSR (`46_host_commands.md` R277, R278) and the register map
(`10_state.md` R47). -/

namespace Sys2Proof.Machine

/-- The bit that shows a baud in STATUS: 0 is 1600, 1 is 3200 (`10_state.md` R47). -/
def baudBit : Baud → BitVec 1
  | .b1600 => 0#1
  | .b3200 => 1#1

/-- The bit that shows the levels in STATUS: 0 is 2-level, 1 is 4-level (`10_state.md` R47). -/
def levelsBit : Levels → BitVec 1
  | .two => 0#1
  | .four => 1#1

/-- The bit that shows the polarity in STATUS: 0 normal, 1 inverted (`10_state.md` R47). -/
def polarityBit : Polarity → BitVec 1
  | .normal => 0#1
  | .inverted => 1#1

/-- STATUS, from bit 10 down: `modal_symbol`, `configured`, `phase_toggle`, `sync_info.levels`,
`sync_info.baud`, `baud`, `sync_info.polarity`, `locked`, `state` (`10_state.md` R47). -/
def csrStatus (s : State) : Word :=
  (s.demod.modalSymbol ++
    (BitVec.ofBool s.configured ++
      (BitVec.ofBool s.coll.phaseToggle ++
        (levelsBit s.sync.levels ++
          (baudBit s.sync.baud ++
            (baudBit s.demod.baud ++
              (polarityBit s.sync.polarity ++
                (BitVec.ofBool s.demod.locked ++ frameStateCode s.frame.state)))))))).setWidth 32

/-- FIW_INFO: `cycle_no` in bits 3:0, `frame_no` in bits 10:4 (`10_state.md` R47). -/
def csrFiwInfo (s : State) : Word := (s.frame.frameNo ++ s.frame.cycleNo).setWidth 32

/-- SEQ_COUNT: `fiw_count` in bits 5:0, `sync2_count` in 14:8, `data_count` in 28:16
(`10_state.md` R47). -/
def csrSeqCount (s : State) : Word :=
  (s.frame.dataCount ++ (0#1 ++ (s.frame.sync2Count ++ (0#2 ++ s.frame.fiwCount)))).setWidth 32

/-- IDLE_COUNT: phase A in bits 7:0 to phase D in 31:24 (`10_state.md` R47). -/
def csrIdleCount (s : State) : Word :=
  s.coll.idleCount.n3 ++ (s.coll.idleCount.n2 ++ (s.coll.idleCount.n1 ++ s.coll.idleCount.n0))

/-- PLL_COUNT: `timeout` in bits 7:0, `nonconsec` in 15:8 (`10_state.md` R47). -/
def csrPllCount (s : State) : Word := (s.demod.nonconsec ++ s.demod.timeout).setWidth 32

/-- Bits 31:0 of a count held as a natural number. -/
def lowHalf (n : Nat) : Word := BitVec.ofNat 32 n

/-- Bits 63:32 of a count held as a natural number. -/
def highHalf (n : Nat) : Word := BitVec.ofNat 32 (n / 2 ^ 32)

/-- The control and status register of a number, or none for a number not in the table of
`10_state.md` R47. -/
def csrRead (number : BitVec 8) (s : State) : Option Word :=
  match number.toNat with
  | 0x00 => some (csrStatus s)
  | 0x01 => some s.sampleFreq
  | 0x02 => some s.sync.syncCode
  | 0x03 => some s.frame.fiwRaw
  | 0x04 => some (csrFiwInfo s)
  | 0x05 => some (csrSeqCount s)
  | 0x06 => some (s.coll.dataBitCounter.setWidth 32)
  | 0x07 => some (csrIdleCount s)
  | 0x08 => some (s.sync.syncBuf.extractLsb' 0 32)
  | 0x09 => some (s.sync.syncBuf.extractLsb' 32 32)
  | 0x0A => some (s.demod.lockBuffer.extractLsb' 0 32)
  | 0x0B => some (s.demod.lockBuffer.extractLsb' 32 32)
  | 0x0C => some ((BitVec.ofInt 64 s.demod.phase).extractLsb' 0 32)
  | 0x0D => some ((BitVec.ofInt 64 s.demod.phase).extractLsb' 32 32)
  | 0x0E => some (csrPllCount s)
  | 0x10 => some s.demod.symCounts.n0
  | 0x11 => some s.demod.symCounts.n1
  | 0x12 => some s.demod.symCounts.n2
  | 0x13 => some s.demod.symCounts.n3
  | 0x14 => some (lowHalf s.demod.sampleCount)
  | 0x15 => some (highHalf s.demod.sampleCount)
  | 0x16 => some (lowHalf s.demod.symbolCount)
  | 0x17 => some (highHalf s.demod.symbolCount)
  | 0x18 => some (lowHalf s.demod.envelopeCount)
  | 0x19 => some (highHalf s.demod.envelopeCount)
  | _ => none

/-- RDPB: the word as collected; an index above 87 is refused with BadAddress
(`46_host_commands.md` R277). -/
def execRdpb (phase : Phase) (index : BitVec 7) (s : State) : Host.Outcome State Fault Refusal :=
  if pbIndexExists index then .next (setValue (pbRead phase index s) (beginResponse s))
  else refuse .badAddress s

/-- RDCSR: the register's value; a number not in the map is refused with BadAddress
(`46_host_commands.md` R278). -/
def execRdcsr (number : BitVec 8) (s : State) : Host.Outcome State Fault Refusal :=
  match csrRead number s with
  | some v => .next (setValue v (beginResponse s))
  | none => refuse .badAddress s

end Sys2Proof.Machine
end

