-- ==== Sys2Proof/Machine/TableRows.lean ====
section
/-! DEFINITION. The rows of the opcode table that are no host command, run on their own: the sync
codes (`30_encoding.md` R94, R95), the symbols (R91) and the state codes (R108). A command makes the
same decodings inside its own step; that a row can be a step by itself is the model's, DESIGN CHOICE
(log entry 3). Each answers the empty response, with the events its handler emits. -/

namespace Sys2Proof.Machine

/-- A received sync code is recorded with its row's mode (`43_synchronizer.md` R204, R205, R206), on
an unconfigured block too: DESIGN CHOICE (log entry 3). -/
def runSyncCode (code : BitVec 16) (b : Baud) (l : Levels) (s : State) :
    Host.Outcome State Fault Refusal :=
  .next (recordMode code b l (beginResponse s))

/-- A symbol is decoded into its four bits (`30_encoding.md` R91), on an unconfigured block too:
DESIGN CHOICE (log entry 3). -/
def runSymbol (q : Symbol) (s : State) : Host.Outcome State Fault Refusal :=
  .next { beginResponse s with symbolIn := decodeSymbol s.sync.polarity q }

/-- The handler a state code dispatches to runs on the symbol input (`30_encoding.md` R108,
`45_state_machine.md` R240), on an unconfigured block too: the spec does not say whether a row run
on its own needs `configured`. DESIGN CHOICE (log entry 3). -/
def runHandler (st : FrameState) (s : State) : Host.Outcome State Fault Refusal :=
  complete (handlerOf st s.symbolIn (beginResponse s)) id

/-- The row `0x870C`: 1600 baud, 2 levels (`30_encoding.md` R94). -/
def execSyncCode870C (code : BitVec 16) (s : State) : Host.Outcome State Fault Refusal :=
  runSyncCode code .b1600 .two s

/-- The row `0xB068`: 1600 baud, 4 levels (`30_encoding.md` R94). -/
def execSyncCodeB068 (code : BitVec 16) (s : State) : Host.Outcome State Fault Refusal :=
  runSyncCode code .b1600 .four s

/-- The row `0x7B18`: 3200 baud, 2 levels (`30_encoding.md` R94). -/
def execSyncCode7B18 (code : BitVec 16) (s : State) : Host.Outcome State Fault Refusal :=
  runSyncCode code .b3200 .two s

/-- The row `0xDEA0`: 3200 baud, 4 levels (`30_encoding.md` R94). -/
def execSyncCodeDEA0 (code : BitVec 16) (s : State) : Host.Outcome State Fault Refusal :=
  runSyncCode code .b3200 .four s

/-- The row `0x4C7C`, as printed: 3200 baud, 4 levels (`30_encoding.md` R94, R95; log entry 13). -/
def execSyncCode4C7C (code : BitVec 16) (s : State) : Host.Outcome State Fault Refusal :=
  runSyncCode code .b3200 .four s

/-- The default for an unknown code: 1600 baud, 2 levels (`43_synchronizer.md` R206). -/
def execSyncCodeUnknown (code : BitVec 16) (s : State) : Host.Outcome State Fault Refusal :=
  runSyncCode code .b1600 .two s

/-- Symbol 0 (`30_encoding.md` R91). -/
def execSymbol0 (s : State) : Host.Outcome State Fault Refusal := runSymbol 0#2 s

/-- Symbol 1 (`30_encoding.md` R91). -/
def execSymbol1 (s : State) : Host.Outcome State Fault Refusal := runSymbol 1#2 s

/-- Symbol 2 (`30_encoding.md` R91). -/
def execSymbol2 (s : State) : Host.Outcome State Fault Refusal := runSymbol 2#2 s

/-- Symbol 3 (`30_encoding.md` R91). -/
def execSymbol3 (s : State) : Host.Outcome State Fault Refusal := runSymbol 3#2 s

/-- State code 0: the SYNC1 handler (`45_state_machine.md` R242). -/
def execStateSync1 (s : State) : Host.Outcome State Fault Refusal := runHandler .sync1 s

/-- State code 1: the FIW handler (`45_state_machine.md` R243 to R245). -/
def execStateFiw (s : State) : Host.Outcome State Fault Refusal := runHandler .fiw s

/-- State code 2: the SYNC2 handler (`45_state_machine.md` R246). -/
def execStateSync2 (s : State) : Host.Outcome State Fault Refusal := runHandler .sync2 s

/-- State code 3: the DATA handler (`45_state_machine.md` R247, R248). -/
def execStateData (s : State) : Host.Outcome State Fault Refusal := runHandler .data s

end Sys2Proof.Machine
end

