-- ==== Sys2Proof/Machine/Dispatch.lean ====
section
/-! DEFINITION. The meaning of each instruction: one arm per constructor of `Instr`. -/

namespace Sys2Proof.Machine

/-- One instruction run on a state (`46_host_commands.md` R270). -/
def exec (i : Instr) (s : State) : Host.Outcome State Fault Refusal :=
  match i with
  | .cfg f => Sys2Proof.Machine.execCfg f s
  | .rst => Sys2Proof.Machine.execRst s
  | .smp v => Sys2Proof.Machine.execSmp v s
  | .sym q => Sys2Proof.Machine.execSym q s
  | .bchfix w => Sys2Proof.Machine.execBchfix w s
  | .bchenc d => Sys2Proof.Machine.execBchenc d s
  | .rdpb p k => Sys2Proof.Machine.execRdpb p k s
  | .rdcsr n => Sys2Proof.Machine.execRdcsr n s
  | .illegal0 => Sys2Proof.Machine.execIllegal0 s
  | .illegal9 => Sys2Proof.Machine.execIllegal9 s
  | .illegalA => Sys2Proof.Machine.execIllegalA s
  | .illegalB => Sys2Proof.Machine.execIllegalB s
  | .illegalC => Sys2Proof.Machine.execIllegalC s
  | .illegalD => Sys2Proof.Machine.execIllegalD s
  | .illegalE => Sys2Proof.Machine.execIllegalE s
  | .illegalF => Sys2Proof.Machine.execIllegalF s
  | .syncCode870C c => Sys2Proof.Machine.execSyncCode870C c s
  | .syncCodeB068 c => Sys2Proof.Machine.execSyncCodeB068 c s
  | .syncCode7B18 c => Sys2Proof.Machine.execSyncCode7B18 c s
  | .syncCodeDEA0 c => Sys2Proof.Machine.execSyncCodeDEA0 c s
  | .syncCode4C7C c => Sys2Proof.Machine.execSyncCode4C7C c s
  | .syncCodeUnknown c => Sys2Proof.Machine.execSyncCodeUnknown c s
  | .symbol0 => Sys2Proof.Machine.execSymbol0 s
  | .symbol1 => Sys2Proof.Machine.execSymbol1 s
  | .symbol2 => Sys2Proof.Machine.execSymbol2 s
  | .symbol3 => Sys2Proof.Machine.execSymbol3 s
  | .stateSync1 => Sys2Proof.Machine.execStateSync1 s
  | .stateFiw => Sys2Proof.Machine.execStateFiw s
  | .stateSync2 => Sys2Proof.Machine.execStateSync2 s
  | .stateData => Sys2Proof.Machine.execStateData s

end Sys2Proof.Machine
end

