-- ==== Sys2Proof/Machine/Step.lean ====
section
/-! DEFINITION. One step: the oldest word the host has submitted is taken, decoded and run to
completion (`00_scope.md` R5, `20_memory.md` R79). -/

namespace Sys2Proof.Machine

/-- With nothing submitted the block does nothing (`60_exceptions.md` R302); otherwise the oldest
word is taken and its instruction runs. The queue is the model's, DESIGN CHOICE (log entry 2). -/
def step (s : State) : Host.Outcome State Fault Refusal :=
  match s.pending with
  | [] => .next s
  | w :: rest => exec (decode w) { s with pending := rest }

/-- The instruction with bits `w` submitted ahead of everything else, so that the next step runs
it. A program is submitted from outside the block (log entry 2); this stands for that. Bits that
are no word of the table submit nothing. -/
def State.withFetchWord (s : State) (nbits w : Nat) : State :=
  match portWordOfBits nbits w with
  | .ok p => { s with pending := p :: s.pending }
  | .error _ => s

end Sys2Proof.Machine
end

