-- ==== Sys2Proof/Safety.lean ====
section
/-! DEFINITION. What counts as a safe run of FLEXFE, in the terms the statements use: the
invariants of `10_state.md` R53, the legal values of R47 and the outcomes of `00_scope.md` R6. -/

namespace Sys2Proof.Safety

open Sys2Proof.Machine

/-- The host submits commands and nothing else (`00_scope.md` R5). -/
def CommandsOnly (s : State) : Prop := ∀ w ∈ s.pending, w.isCommand = true

/-- `10_state.md` R53 (b): `0 <= phase <= 100 * sample_freq` when `sample_freq >= 3200`. -/
def PhaseInPeriod (s : State) : Prop :=
  3200 ≤ s.sampleFreq.toNat → 0 ≤ s.demod.phase ∧ s.demod.phase ≤ 100 * (s.sampleFreq.toNat : Int)

/-- The part of `10_state.md` R53 (c) about state FIW. -/
def FiwInProgress (s : State) : Prop := s.frame.state = .fiw → s.frame.fiwCount.toNat ≤ 47

/-- The part of `10_state.md` R53 (c) about state SYNC2. -/
def Sync2InProgress (s : State) : Prop :=
  s.frame.state = .sync2 → s.frame.sync2Count.toNat < baudRate s.sync.baud * 25 / 1000

/-- The number of data symbols that `data_bit_counter` and `phase_toggle` say were collected in the
frame: one per counter value at 1600 baud, two at 3200 (`44_collector.md` R226, R230 (b)). -/
def symbolsCollected (s : State) : Nat :=
  match s.sync.baud with
  | .b1600 => s.coll.dataBitCounter.toNat
  | .b3200 => 2 * s.coll.dataBitCounter.toNat + s.coll.phaseToggle.toNat

/-- The part of `10_state.md` R53 (c) about state DATA, with the agreement of the two data
counters that it rests on and the pinned toggle of (d). -/
def DataInProgress (s : State) : Prop :=
  s.frame.state = .data →
    s.frame.dataCount.toNat < baudRate s.sync.baud * 1760 / 1000 ∧
      symbolsCollected s = s.frame.dataCount.toNat ∧
        (s.sync.baud = .b1600 → s.coll.phaseToggle = false)

/-- `10_state.md` R53 (e): in SYNC2 and DATA the demodulator runs at the frame's baud. -/
def BaudsAgree (s : State) : Prop :=
  s.frame.state = .sync2 ∨ s.frame.state = .data → s.demod.baud = s.sync.baud

/-- `10_state.md` R35: `sync_code` is a 16-bit code, zero-extended, and `baud` and `levels` hold
the mode it selects. -/
def ModeFollowsCode (s : State) : Prop :=
  s.sync.syncCode.toNat < 2 ^ 16 ∧
    (s.sync.baud, s.sync.levels) = modeOfCode (s.sync.syncCode.setWidth 16)

/-- The legal values of SAMPLE_FREQ (`10_state.md` R47): 0 while unconfigured, else not 0. -/
def RateIffConfigured (s : State) : Prop := s.configured = true ↔ s.sampleFreq ≠ 0#32

/-- `10_state.md` R31 and R32: the largest reachable values of `timeout` and `nonconsec` are 101
and 20, and while `locked` is 1 neither has reached the value that drops lock. -/
def LockCountersBounded (s : State) : Prop :=
  s.demod.timeout.toNat ≤ 101 ∧ s.demod.nonconsec.toNat ≤ 20 ∧
    (s.demod.locked = true → s.demod.timeout.toNat ≤ 100 ∧ s.demod.nonconsec.toNat ≤ 19)

/-- `10_state.md` R30: `lock_buffer` is cleared when lock is acquired and not shifted while
`locked` is 1. -/
def LockBufferIdle (s : State) : Prop := s.demod.locked = true → s.demod.lockBuffer = 0#64

/-- The legal values of SEQ_COUNT and DATA_BIT_COUNTER (`10_state.md` R47). -/
def CountersLegal (s : State) : Prop :=
  s.frame.fiwCount.toNat ≤ 48 ∧ s.frame.sync2Count.toNat ≤ 80 ∧ s.frame.dataCount.toNat ≤ 5632 ∧
    s.coll.dataBitCounter.toNat ≤ 2816

/-- The legal values of IDLE_COUNT (`10_state.md` R42, R47): at most 11, and in state DATA at most
one for each idle-check point passed. -/
def IdleCountsBounded (s : State) : Prop :=
  (∀ p : Phase, (fourGet s.coll.idleCount (phaseBits p)).toNat ≤ 11) ∧
    (s.frame.state = .data →
      (∀ p : Phase, (fourGet s.coll.idleCount (phaseBits p)).toNat ≤
        (s.coll.dataBitCounter.toNat + s.coll.phaseToggle.toNat) / 256) ∧
      s.coll.idleCount.n2.toNat ≤ s.coll.dataBitCounter.toNat / 256 ∧
      s.coll.idleCount.n3.toNat ≤ s.coll.dataBitCounter.toNat / 256)

/-- The state of a block that only commands have driven. -/
structure WellRun (s : State) : Prop where
  commandsOnly : CommandsOnly s
  memoryCanonical : Memory.wf s.coll.pb = true
  rateIffConfigured : RateIffConfigured s
  phaseInPeriod : PhaseInPeriod s
  fiwInProgress : FiwInProgress s
  sync2InProgress : Sync2InProgress s
  dataInProgress : DataInProgress s
  baudsAgree : BaudsAgree s
  modeFollowsCode : ModeFollowsCode s
  lockCountersBounded : LockCountersBounded s
  lockBufferIdle : LockBufferIdle s
  countersLegal : CountersLegal s
  idleCountsBounded : IdleCountsBounded s

/-- The instruction is a host command (`30_encoding.md` R102). -/
def isHostCommand (i : Instr) : Bool := (encode i).isCommand

/-- Every register of `10_state.md` R20 has the value it had: the states differ at most in the
model's own fields. -/
def SameRegisters (s t : State) : Prop :=
  t.configured = s.configured ∧ t.sampleFreq = s.sampleFreq ∧ t.demod = s.demod ∧
    t.sync = s.sync ∧ t.frame = s.frame ∧ t.coll = s.coll

/-- The configuration registers, which only CFG writes (`10_state.md` R21). -/
def SameConfiguration (s t : State) : Prop :=
  t.configured = s.configured ∧ t.sampleFreq = s.sampleFreq

/-- Every register that the table of `10_state.md` R49 gives a value after RST has that value. -/
def AtReset (s : State) : Prop :=
  s.demod =
      { baud := .b1600, phase := 0, sampleCount := 0, symbolCount := 0, symbolRate := 0,
        zeroOffset := 0, envelope := 0, envelopeSum := 0, envelopeCount := 0,
        symCounts := ⟨0, 0, 0, 0⟩, lastSample := 0, locked := false, lockBuffer := 0,
        timeout := 0, nonconsec := 0, modalSymbol := 0 } ∧
    s.sync = { syncBuf := 0, syncCode := 0, baud := .b1600, levels := .two, polarity := .normal } ∧
    s.frame =
      { state := .sync1, fiwCount := 0, fiwRaw := 0, cycleNo := 0, frameNo := 0, sync2Count := 0,
        dataCount := 0 } ∧
    (∀ (p : Phase) (i : BitVec 7), pbRead p i s = 0#32) ∧
    s.coll.idleCount = ⟨0, 0, 0, 0⟩ ∧ s.coll.phaseToggle = false ∧ s.coll.dataBitCounter = 0

/-- The response OK with a value, `aux` = 0 and no events (`30_encoding.md` R103). -/
def okResponse (v : Word) : Response := { status := .ok, value := v, aux := 0, events := [] }

/-- The response of a refused command: the error, value 0, `aux` = 0, no events (`30_encoding.md`
R103, `60_exceptions.md` R290). -/
def refusal (e : ErrorCode) : Response := { status := .err e, value := 0, aux := 0, events := [] }

/-! ### One sample, read off the rules of `42_demodulator.md` in exact arithmetic -/

/-- SMP runs the demodulator: the block is configured, the sample is finite (`46_host_commands.md`
R273) and, if the symbol may reach the collector, the collector's word exists (`10_state.md`
R53 (c)). -/
def SampleRuns (v : Word) (s : State) : Prop :=
  s.configured = true ∧ v.extractLsb' 23 8 ≠ 0xFF#8 ∧
    (s.frame.state = .data → s.coll.dataBitCounter.toNat ≤ 2815)

/-- `phase_max` (R151). -/
def periodLength (s : State) : Int := 100 * (s.sampleFreq.toNat : Int)

/-- `phase_rate` (R151). -/
def phaseStep (s : State) : Int :=
  match s.demod.baud with
  | .b1600 => 160000
  | .b3200 => 320000

/-- `in_mid` (R151). -/
def inMiddle (s : State) : Bool :=
  decide (periodLength s < 10 * s.demod.phase ∧ 10 * s.demod.phase < 9 * periodLength s)

/-- `zero_offset` after the sample (R152). -/
def offsetAfter (v : Word) (s : State) : Rat :=
  if s.frame.state = .sync1 then
    (s.demod.zeroOffset * ((s.sampleFreq.toNat : Rat) / 100) + sampleValue v) /
      ((s.sampleFreq.toNat : Rat) / 100 + 1)
  else s.demod.zeroOffset

/-- `x`, the DC-corrected sample (R152). -/
def correctedSample (v : Word) (s : State) : Rat := sampleValue v - offsetAfter v s

/-- `envelope` when the slicer reads it (R153). -/
def envelopeAfter (v : Word) (s : State) : Rat :=
  if s.demod.locked = false then 0
  else if s.frame.state = .sync1 then
    (s.demod.envelopeSum + |correctedSample v s|) / ((s.demod.envelopeCount : Rat) + 1)
  else s.demod.envelope

/-- `k`, the level of the sample (R154). -/
def levelOf (v : Word) (s : State) : Symbol :=
  if 667 / 1000 * envelopeAfter v s < correctedSample v s then 3
  else if 0 < correctedSample v s then 2
  else if -(667 / 1000 * envelopeAfter v s) < correctedSample v s ∧ correctedSample v s ≤ 0 then 1
  else 0

/-- `sym_counts` after the slicer (R154). -/
def countsAfter (v : Word) (s : State) : Four (BitVec 32) :=
  if inMiddle s = true then
    fourSet s.demod.symCounts (levelOf v s) (fourGet s.demod.symCounts (levelOf v s) + 1)
  else s.demod.symCounts

/-- `crossing` (R155): one of the two samples is negative and the other is not. -/
def signChanges (v : Word) (s : State) : Bool :=
  decide ((s.demod.lastSample < 0 ∧ 0 ≤ correctedSample v s) ∨
    (0 ≤ s.demod.lastSample ∧ correctedSample v s < 0))

/-- `phase` after step 5 (R155). -/
def phaseCorrected (v : Word) (s : State) : Int :=
  let err := if 2 * s.demod.phase < periodLength s then s.demod.phase
    else s.demod.phase - periodLength s
  let rate : Rat := if s.demod.locked = true then 9 / 200 else 1 / 20
  if signChanges v s = true then truncAnalog ((s.demod.phase : Rat) - (err : Rat) * rate)
  else s.demod.phase

/-- `completed` (R157). -/
def symbolEnds (v : Word) (s : State) : Bool :=
  decide (periodLength s < phaseCorrected v s + phaseStep s)

/-- `nonconsec` after step 5 (R153, R156). -/
def crossingsAfter (v : Word) (s : State) : Nat :=
  let before := if s.demod.locked = true then s.demod.nonconsec.toNat else 0
  if signChanges v s = true then (if inMiddle s = true then before + 1 else 0) else before

/-- Step 5 drops lock (R156). -/
def dropsLock (v : Word) (s : State) : Bool :=
  s.demod.locked && (signChanges v s && (inMiddle s && decide (20 ≤ crossingsAfter v s)))

/-- `locked` when the symbol-complete sequence starts. -/
def holdsLock (v : Word) (s : State) : Bool := s.demod.locked && !dropsLock v s

/-- `timeout` after step 5 (R153, R155). -/
def timeoutBefore (v : Word) (s : State) : Nat :=
  if s.demod.locked = false ∨ signChanges v s = true then 0 else s.demod.timeout.toNat

/-- The symbol completion drops lock (R162). -/
def timesOut (v : Word) (s : State) : Bool :=
  holdsLock v s && decide (100 < timeoutBefore v s + 1)

/-- The modal symbol: the least level whose count is the greatest (R158). -/
def IsModal (c : Four (BitVec 32)) (m : Symbol) : Prop :=
  (∀ k : Symbol, fourGet c k ≤ fourGet c m) ∧ ∀ k : Symbol, k < m → fourGet c k < fourGet c m

/-- The lock pattern, as its two matching contents (`30_encoding.md` R100). -/
def lockPattern (b : BitVec 64) : Bool :=
  decide (b.extractLsb' 0 48 = 0x666666666666#48 ∨ b.extractLsb' 0 48 = 0x999999999999#48)

/-! ### One symbol, read off the rules of `43_synchronizer.md` to `45_state_machine.md` -/

/-- `rect(q)` (`43_synchronizer.md` R207). -/
def rectified (s : State) (q : Symbol) : Symbol :=
  if s.sync.polarity = .inverted then 3 - q else q

/-- `sync_buf` after a symbol in SYNC1 (`43_synchronizer.md` R200). -/
def bufferAfter (s : State) (q : Symbol) : BitVec 64 :=
  (s.sync.syncBuf <<< 1) ||| (if q.toNat < 2 then 1 else 0)

/-- `accept(b)` (`43_synchronizer.md` R201, R202). -/
def accepts (b : BitVec 64) : Bool :=
  decide (popcount (b.extractLsb' 16 32 ^^^ 0xA6C6AAAA#32) < 4 ∧
    popcount (b.extractLsb' 48 16 ^^^ ~~~(b.extractLsb' 0 16)) < 4)

/-- The polarity found and the buffer value it was found on (`43_synchronizer.md` R203). -/
def FoundSync (buffer : BitVec 64) (pol : Polarity) (b : BitVec 64) : Prop :=
  (accepts buffer = true ∧ pol = .normal ∧ b = buffer) ∨
    (accepts buffer = false ∧ accepts (~~~buffer) = true ∧ pol = .inverted ∧ b = ~~~buffer)

/-- The mode of a code and whether a row was selected (`30_encoding.md` R94, `43_synchronizer.md`
R205, R206). -/
def tableMode (code : BitVec 16) : Baud × Levels × Bool :=
  if popcount (code ^^^ 0x870C#16) ≤ 3 then (.b1600, .two, true)
  else if popcount (code ^^^ 0xB068#16) ≤ 3 then (.b1600, .four, true)
  else if popcount (code ^^^ 0x7B18#16) ≤ 3 then (.b3200, .two, true)
  else if popcount (code ^^^ 0xDEA0#16) ≤ 3 then (.b3200, .four, true)
  else if popcount (code ^^^ 0x4C7C#16) ≤ 3 then (.b3200, .four, true)
  else (.b1600, .two, false)

/-- A bit entering a word at the top (`20_memory.md` R73). -/
def enterTop (w : Word) (bit : Bool) : Word := (w >>> 1) ||| ((if bit then 1 else 0) <<< 31)

/-- `fiw_raw` after a symbol in FIW, before any correction (`45_state_machine.md` R243). -/
def fiwAfter (s : State) (q : Symbol) : Word :=
  if 16 < s.frame.fiwCount.toNat + 1 then
    enterTop s.frame.fiwRaw (decide (1 < (rectified s q).toNat))
  else s.frame.fiwRaw

/-- The SYNC2 bound (`45_state_machine.md` R246). -/
def sync2Bound (s : State) : Nat :=
  match s.sync.baud with
  | .b1600 => 40
  | .b3200 => 80

/-- The DATA bound (`45_state_machine.md` R247). -/
def dataBound (s : State) : Nat :=
  match s.sync.baud with
  | .b1600 => 2816
  | .b3200 => 5632

/-- The toggle that a collector step uses (`44_collector.md` R221). -/
def toggleUsed (s : State) : Bool := decide (s.sync.baud = .b3200) && s.coll.phaseToggle

/-- The word index of a collector step (`44_collector.md` R222). -/
def wordIndex (s : State) : BitVec 7 := deinterleaveIndex s.coll.dataBitCounter

/-- The phase is written by a collector step (`44_collector.md` R223, R224). -/
def stepWrites (s : State) (p : Phase) : Bool :=
  decide (p ∈ writtenPhases (toggleUsed s) s.sync.levels)

/-- The bit of a rectified symbol that goes to a phase (`44_collector.md` R220, R223, R224). -/
def dataBit (p : Phase) (r : Symbol) : Bool :=
  match p with
  | .a => decide (1 < r.toNat)
  | .b => decide (r = 1 ∨ r = 2)
  | .c => decide (1 < r.toNat)
  | .d => decide (r = 1 ∨ r = 2)

/-- From `s` to `t` one collector step for the symbol `q` was made: each phase written takes its bit
at the top of the step's word, an idle word at an idle-check point is counted, the toggle and the
bit counter move (`44_collector.md` R220 to R226, R229). -/
def CollectedStep (q : Symbol) (s t : State) : Prop :=
  (∀ (p : Phase) (k : BitVec 7),
    pbRead p k t =
      if stepWrites s p = true ∧ k = wordIndex s then
        enterTop (pbRead p k s) (dataBit p (rectified s q))
      else pbRead p k s) ∧
  (∀ p : Phase,
    (fourGet t.coll.idleCount (phaseBits p)).toNat =
      (fourGet s.coll.idleCount (phaseBits p)).toNat +
        (if s.coll.dataBitCounter.toNat % 256 = 255 ∧ stepWrites s p = true ∧
            (pbRead p (wordIndex s) t = 0x00000000#32 ∨
              pbRead p (wordIndex s) t = 0xFFFFFFFF#32) then 1
          else 0)) ∧
  t.coll.phaseToggle = (decide (s.sync.baud = .b3200) && !s.coll.phaseToggle) ∧
  t.coll.dataBitCounter.toNat =
    s.coll.dataBitCounter.toNat +
      (if s.sync.baud = .b1600 ∨ s.coll.phaseToggle = true then 1 else 0)

/-- The bits that the handler of `st` reads from the symbol input are those of the symbol `q`, the
data bits rectified by the polarity held (`30_encoding.md` R91, `45_state_machine.md` R241). -/
def InputIsSymbol (st : FrameState) (q : Symbol) (s : State) : Prop :=
  match st with
  | .sync1 => s.symbolIn.syncBit = decide (q.toNat < 2)
  | .fiw => s.symbolIn.bitA = decide (1 < (rectified s q).toNat)
  | .sync2 => True
  | .data =>
    s.symbolIn.bitA = decide (1 < (rectified s q).toNat) ∧
      s.symbolIn.bitB = decide (rectified s q = 1 ∨ rectified s q = 2)

/-- All active phases idle (`44_collector.md` R227). -/
def activeIdle (b : Baud) (l : Levels) (n : Four (BitVec 8)) : Bool :=
  match b, l with
  | .b1600, .two => decide (0 < n.n0.toNat)
  | .b1600, .four => decide (0 < n.n0.toNat ∧ 0 < n.n1.toNat)
  | .b3200, .two => decide (0 < n.n0.toNat ∧ 0 < n.n2.toNat)
  | .b3200, .four =>
    decide (0 < n.n0.toNat ∧ 0 < n.n1.toNat ∧ 0 < n.n2.toNat ∧ 0 < n.n3.toNat)

/-- The transitions of `45_state_machine.md` R250 that one symbol makes, with the one event each
emits. -/
inductive Transition : FrameState → FrameState → List Event → Prop where
  | stay (st : FrameState) : Transition st st []
  | syncFound (c : BitVec 16) (b : Baud) (l : Levels) (p : Polarity) (k : Bool) :
      Transition .sync1 .fiw [.syncFound c b l p k]
  | fiwRejected (c : FiwRejection) (w : Word) : Transition .fiw .sync1 [.fiwRejected c w]
  | fiwAccepted (c : BitVec 4) (f : BitVec 7) (w : Word) (n : Nat) :
      Transition .fiw .sync2 [.fiwAccepted c f w n]
  | sync2Ends : Transition .sync2 .data []
  | frameReady (i f : Bool) (b : Baud) (l : Levels) (p : Polarity) (c : BitVec 4)
      (n : BitVec 7) : Transition .data .sync1 [.frameReady i f b l p c n]

/-! ### Comparing two runs -/

/-- The states agree in all but the diagnostics `sample_count`, `symbol_count`, `symbol_rate`
(`10_state.md` R24). -/
def SameButDiagnostics (s t : State) : Prop :=
  t =
    { s with
      demod :=
        { s.demod with
          sampleCount := t.demod.sampleCount
          symbolCount := t.demod.symbolCount
          symbolRate := t.demod.symbolRate } }

/-- The other polarity. -/
def flipPolarity : Polarity → Polarity
  | .normal => .inverted
  | .inverted => .normal

/-- An event with the other polarity. -/
def flipEvent : Event → Event
  | .syncFound c b l p k => .syncFound c b l (flipPolarity p) k
  | .frameReady i f b l p c n => .frameReady i f b l (flipPolarity p) c n
  | .lockAcquired => .lockAcquired
  | .lockLost c => .lockLost c
  | .fiwAccepted c f w n => .fiwAccepted c f w n
  | .fiwRejected c w => .fiwRejected c w
  | .symbol q f => .symbol q f

/-- The state of a block that received every symbol inverted: the sync buffer is the complement,
the polarity the other one, everything else is the same (`43_synchronizer.md` R207, R209 (b)). -/
def invertedTwin (s : State) : State :=
  { s with
    sync :=
      { s.sync with
        syncBuf := ~~~s.sync.syncBuf, polarity := flipPolarity s.sync.polarity }
    response := { s.response with events := s.response.events.map flipEvent } }

/-! ### The BCH code -/

/-- The rows of `41_bch.md` R134, from bit 0 up. -/
def bchRows : List Word :=
  [0x16E00001#32, 0x2DC00002#32, 0x5B800004#32, 0x21E00008#32, 0x43C00010#32, 0x11600020#32,
    0x22C00040#32, 0x45800080#32, 0x1DE00100#32, 0x3BC00200#32, 0x77800400#32, 0x79E00800#32,
    0x65201000#32, 0x5CA02000#32, 0x2FA04000#32, 0x5F408000#32, 0x28610000#32, 0x50C20000#32,
    0x37640000#32, 0x6EC80000#32, 0x4B700000#32]

/-- The exclusive-or of the rows of the set bits of the data, counted from bit `b` up
(`41_bch.md` R134). -/
def xorOfRows (d : BitVec 21) : Nat → List Word → Word
  | _, [] => 0
  | b, row :: rest => (if d.getLsbD b then row else 0) ^^^ xorOfRows d (b + 1) rest

/-- Bits 30:0 of a word, the part a BCH operation looks at (`41_bch.md` R124, R130). -/
def codeBits (w : Word) : BitVec 31 := w.extractLsb' 0 31

/-- The payload bits that `30_encoding.md` R102 lists for an opcode. -/
def listedPayload (op : BitVec 4) : Word :=
  match op.toNat with
  | 1 => 0xFFFFFFFF#32
  | 3 => 0xFFFFFFFF#32
  | 4 => 0x00000003#32
  | 5 => 0xFFFFFFFF#32
  | 6 => 0x001FFFFF#32
  | 7 => 0x000001FF#32
  | 8 => 0x000000FF#32
  | _ => 0#32

/-! ### The rows of the tables -/

/-- The illegal opcodes (`46_host_commands.md` R279). -/
def illegalRows : List Instr :=
  [.illegal0, .illegal9, .illegalA, .illegalB, .illegalC, .illegalD, .illegalE, .illegalF]

/-- The rows of `30_encoding.md` R94 and the default of R95, for a received code. -/
def modeRows (c : BitVec 16) : List (Instr × Baud × Levels) :=
  [(.syncCode870C c, .b1600, .two), (.syncCodeB068 c, .b1600, .four),
    (.syncCode7B18 c, .b3200, .two), (.syncCodeDEA0 c, .b3200, .four),
    (.syncCode4C7C c, .b3200, .four), (.syncCodeUnknown c, .b1600, .two)]

/-- The rows of `30_encoding.md` R91: the four bits at normal polarity, and with the symbol
rectified at inverted polarity. -/
def symbolRows : List (Instr × SymbolBits × SymbolBits) :=
  [(.symbol0, ⟨false, false, true, 1⟩, ⟨true, false, true, 1⟩),
    (.symbol1, ⟨false, true, true, 0⟩, ⟨true, true, true, 0⟩),
    (.symbol2, ⟨true, true, false, 3⟩, ⟨false, true, false, 3⟩),
    (.symbol3, ⟨true, false, false, 2⟩, ⟨false, false, false, 2⟩)]

/-- The map of `10_state.md` R47: each number with the value of its fields, every other bit 0. -/
def registerMap (s : State) : List (BitVec 8 × Nat) :=
  [(0x00#8,
      (frameStateCode s.frame.state).toNat + 4 * s.demod.locked.toNat +
        8 * (if s.sync.polarity = .inverted then 1 else 0) +
        16 * (if s.demod.baud = .b3200 then 1 else 0) +
        32 * (if s.sync.baud = .b3200 then 1 else 0) +
        64 * (if s.sync.levels = .four then 1 else 0) + 128 * s.coll.phaseToggle.toNat +
        256 * s.configured.toNat + 512 * s.demod.modalSymbol.toNat),
    (0x01#8, s.sampleFreq.toNat), (0x02#8, s.sync.syncCode.toNat),
    (0x03#8, s.frame.fiwRaw.toNat),
    (0x04#8, s.frame.cycleNo.toNat + 16 * s.frame.frameNo.toNat),
    (0x05#8,
      s.frame.fiwCount.toNat + 2 ^ 8 * s.frame.sync2Count.toNat +
        2 ^ 16 * s.frame.dataCount.toNat),
    (0x06#8, s.coll.dataBitCounter.toNat),
    (0x07#8,
      s.coll.idleCount.n0.toNat + 2 ^ 8 * s.coll.idleCount.n1.toNat +
        2 ^ 16 * s.coll.idleCount.n2.toNat + 2 ^ 24 * s.coll.idleCount.n3.toNat),
    (0x08#8, s.sync.syncBuf.toNat % 2 ^ 32), (0x09#8, s.sync.syncBuf.toNat / 2 ^ 32),
    (0x0A#8, s.demod.lockBuffer.toNat % 2 ^ 32), (0x0B#8, s.demod.lockBuffer.toNat / 2 ^ 32),
    (0x0C#8, (s.demod.phase % 2 ^ 32).toNat), (0x0D#8, (s.demod.phase / 2 ^ 32 % 2 ^ 32).toNat),
    (0x0E#8, s.demod.timeout.toNat + 2 ^ 8 * s.demod.nonconsec.toNat),
    (0x10#8, s.demod.symCounts.n0.toNat), (0x11#8, s.demod.symCounts.n1.toNat),
    (0x12#8, s.demod.symCounts.n2.toNat), (0x13#8, s.demod.symCounts.n3.toNat),
    (0x14#8, s.demod.sampleCount % 2 ^ 32), (0x15#8, s.demod.sampleCount / 2 ^ 32 % 2 ^ 32),
    (0x16#8, s.demod.symbolCount % 2 ^ 32), (0x17#8, s.demod.symbolCount / 2 ^ 32 % 2 ^ 32),
    (0x18#8, s.demod.envelopeCount % 2 ^ 32),
    (0x19#8, s.demod.envelopeCount / 2 ^ 32 % 2 ^ 32)]

end Sys2Proof.Safety
end

