-- ==== Sys2Proof/Certificates/Slice0/Obligations.lean ====
section
/-! DEFINITION. The statements for the provers, from the numbered rules of the spec. Where a
statement rests on a choice of the model its docstring names the log entry. -/

open Sys2Proof Sys2Proof.Machine Sys2Proof.Safety

/-! ### Encoding and decoding -/

/-- Some words, written out from `30_encoding.md` R101, R102, R94, R91, R108, decode to the
instructions they stand for. -/
def Obligations.WrittenOutWordsDecode : Prop :=
  decode (.command 0x100005622#36) = .cfg 22050#32 ∧
    decode (.command 0x200000000#36) = .rst ∧
    decode (.command 0x3BF800000#36) = .smp 0xBF800000#32 ∧
    decode (.command 0x400000002#36) = .sym 2#2 ∧
    decode (.command 0x5001FFFFF#36) = .bchfix 0x001FFFFF#32 ∧
    decode (.command 0x60000032A#36) = .bchenc 0x32A#21 ∧
    decode (.command 0x700000157#36) = .rdpb .c 87#7 ∧
    decode (.command 0x80000000E#36) = .rdcsr 0x0E#8 ∧
    decode (.command 0x9FFFFFFFF#36) = .illegal9 ∧
    decode (.syncCode 0x870F#16) = .syncCode870C 0x870F#16 ∧
    decode (.syncCode 0x1234#16) = .syncCodeUnknown 0x1234#16 ∧
    decode (.symbol 3#2) = .symbol3 ∧
    decode (.stateCode 1#2) = .stateFiw

/-- The opcode map (`30_encoding.md` R101, R102): bits 35:32 select the command, whatever the
payload, and payload bits not listed are ignored. The command word and its map are the spec's own
decision D2. -/
def Obligations.OpcodeMapDecodes : Prop :=
  ∀ v : Word,
    decode (.command (0x1#4 ++ v)) = .cfg v ∧
      decode (.command (0x2#4 ++ v)) = .rst ∧
      decode (.command (0x3#4 ++ v)) = .smp v ∧
      decode (.command (0x4#4 ++ v)) = .sym (v.extractLsb' 0 2) ∧
      decode (.command (0x5#4 ++ v)) = .bchfix v ∧
      decode (.command (0x6#4 ++ v)) = .bchenc (v.extractLsb' 0 21) ∧
      (∃ p : Phase, phaseBits p = v.extractLsb' 7 2 ∧
        decode (.command (0x7#4 ++ v)) = .rdpb p (v.extractLsb' 0 7)) ∧
      decode (.command (0x8#4 ++ v)) = .rdcsr (v.extractLsb' 0 8) ∧
      decode (.command (0x0#4 ++ v)) = .illegal0 ∧
      decode (.command (0x9#4 ++ v)) = .illegal9 ∧
      decode (.command (0xA#4 ++ v)) = .illegalA ∧
      decode (.command (0xB#4 ++ v)) = .illegalB ∧
      decode (.command (0xC#4 ++ v)) = .illegalC ∧
      decode (.command (0xD#4 ++ v)) = .illegalD ∧
      decode (.command (0xE#4 ++ v)) = .illegalE ∧
      decode (.command (0xF#4 ++ v)) = .illegalF

/-- Decode and encode agree: the word of a well-formed instruction decodes to it, for every
instruction and every operand. Which word a row of SYMBOL2 or STATE2 is, is `PortWord`'s tag. That
the encoder writes ignored bits as 0 is log entry 14. -/
def Obligations.DecodeOfEncode : Prop :=
  ∀ i : Instr, i.wellFormed = true → decode (encode i) = i

/-- Encode after decode: every decoded instruction is well formed, and its word is the word decoded,
but for the payload bits that `30_encoding.md` R102 does not list, which are 0 (log entry 14: the
encoder writes ignored bits as 0). -/
def Obligations.EncodeOfDecode : Prop :=
  (∀ w : PortWord, (decode w).wellFormed = true) ∧
    (∀ (op : BitVec 4) (v : Word),
      encode (decode (.command (op ++ v))) = .command (op ++ (v &&& listedPayload op))) ∧
    (∀ c : BitVec 16, encode (decode (.syncCode c)) = .syncCode c) ∧
    (∀ q : Symbol, encode (decode (.symbol q)) = .symbol q) ∧
    ∀ c : BitVec 2, encode (decode (.stateCode c)) = .stateCode c

/-- At most one row of the mode table is within distance 3 of a code (`30_encoding.md` R94), so a
code is well formed for exactly one constructor of SYNCCODE16. That no code is near two rows is
derived in R94, which takes the first row by decision D20. -/
def Obligations.SyncCodeRowUnique : Prop :=
  (∀ (c : BitVec 16) (r r' : BitVec 16 × Baud × Levels), r ∈ modeTable → r' ∈ modeTable →
      popcount (c ^^^ r.1) ≤ 3 → popcount (c ^^^ r'.1) ≤ 3 → r = r') ∧
    ∀ c : BitVec 16,
      modeOfCode c = ((tableMode c).1, (tableMode c).2.1) ∧
        (knownMode c).isSome = (tableMode c).2.2

/-- A step takes the oldest submitted word and runs the instruction it decodes to; with nothing
submitted it changes nothing (`00_scope.md` R5, `60_exceptions.md` R302). The queue of submitted
words is the model's (log entry 2). -/
def Obligations.StepRunsDecodedInstruction : Prop :=
  (∀ (s : State) (w : PortWord) (rest : List PortWord) (i : Instr),
      s.pending = w :: rest → decode w = i → step s = exec i { s with pending := rest }) ∧
    ∀ s : State, s.pending = [] → step s = .next s

/-! ### Configuration, reset, refusals -/

/-- After power-on every register has the value of `10_state.md` R49. Most of the values are the
spec's own decision D29. -/
def Obligations.PowerOnValues : Prop :=
  State.reset.configured = false ∧ State.reset.sampleFreq = 0 ∧ AtReset State.reset

/-- CFG with a rate that is not 0 writes `sample_freq` and `configured` and resets every other
register; with 0 it is refused with InvalidConfiguration and no register changes
(`46_host_commands.md` R271). A refused command is a next state (log entry 1), with value 0 and aux
0 (log entry 16). Reconfiguring as a reset is the spec's decision D4, the zeros its decision D29. -/
def Obligations.CfgConfiguresOrRefuses : Prop :=
  ∀ (f : Word) (s : State),
    ∃ t, exec (.cfg f) s = .next t ∧
      (f ≠ 0 → t.configured = true ∧ t.sampleFreq = f ∧ AtReset t ∧ t.response = okResponse 0) ∧
      (f = 0 → SameRegisters s t ∧ t.response = refusal .invalidConfiguration)

/-- RST gives every register but `configured` and `sample_freq` its reset value
(`46_host_commands.md` R272). -/
def Obligations.RstResets : Prop :=
  ∀ s : State,
    ∃ t, exec .rst s = .next t ∧ SameConfiguration s t ∧ AtReset t ∧ t.response = okResponse 0

/-- The eight illegal opcodes are refused with IllegalCommand: no state change, no events
(`46_host_commands.md` R279). A refused command is a next state (log entry 1), with value 0 and aux
0 (log entry 16). The opcodes and the code are the spec's decisions D2 and D34. -/
def Obligations.IllegalOpcodesRefused : Prop :=
  ∀ i : Instr, i ∈ illegalRows → ∀ s : State,
      ∃ t, exec i s = .next t ∧ SameRegisters s t ∧ t.response = refusal .illegalCommand

/-- SMP and SYM before configuration are refused with NotConfigured, whatever the operand; a
configured SMP of a NaN or an infinity with BadOperand (`46_host_commands.md` R273, R281,
`60_exceptions.md` R296). A refused command is a next state (log entry 1), with value 0 and aux 0
(log entry 16). The codes and their order are the spec's decisions D4 and D34. -/
def Obligations.SmpAndSymRefusals : Prop :=
  (∀ (v : Word) (s : State), s.configured = false →
      ∃ t, exec (.smp v) s = .next t ∧ SameRegisters s t ∧ t.response = refusal .notConfigured) ∧
    (∀ (q : Symbol) (s : State), s.configured = false →
      ∃ t, exec (.sym q) s = .next t ∧ SameRegisters s t ∧ t.response = refusal .notConfigured) ∧
    ∀ (v : Word) (s : State), s.configured = true → v.extractLsb' 23 8 = 0xFF#8 →
      ∃ t, exec (.smp v) s = .next t ∧ SameRegisters s t ∧ t.response = refusal .badOperand

/-- Whatever the instruction: a response whose status is an error carries no events, and no register
has changed (`00_scope.md` R6, `60_exceptions.md` R290). A refused command is a next state (log
entry 1). -/
def Obligations.ErrorsChangeNoRegister : Prop :=
  ∀ (i : Instr) (s t : State) (e : ErrorCode),
    exec i s = .next t → t.response.status = .err e → SameRegisters s t ∧ t.response.events = []

/-- Whatever the instruction: only a successful CFG writes `configured` and `sample_freq`, and
`configured` is never cleared (`10_state.md` R21, R51). The flag is the spec's own decision D4. -/
def Obligations.OnlyCfgWritesConfiguration : Prop :=
  ∀ (i : Instr) (s t : State), exec i s = .next t →
    (SameConfiguration s t ∨ ∃ f : Word, i = .cfg f ∧ f ≠ 0 ∧ t.configured = true ∧
      t.sampleFreq = f) ∧
      (s.configured = true → t.configured = true)

/-- Whatever the instruction: the response of an earlier command, with its events, is read by
nothing (`60_exceptions.md` R297, `46_host_commands.md` R270). That a state holds the last response
is the model's (log entry 2). -/
def Obligations.ResponseIsOutputOnly : Prop :=
  ∀ (i : Instr) (s : State) (r : Response), exec i { s with response := r } = exec i s

/-! ### The BCH commands -/

/-- BCHENC (`46_host_commands.md` R276): the codeword of the data, whose low 21 bits are the data,
bits 30:21 the parity bits, bit 31 zero; payload bits 31:21 are ignored; no register changes and the
block need not be configured. -/
def Obligations.BchencResponse : Prop :=
  (∀ (d : BitVec 21) (s : State),
    ∃ t, exec (.bchenc d) s = .next t ∧ SameRegisters s t ∧
      t.response = okResponse (bchEncode d) ∧ t.response.value.extractLsb' 0 21 = d ∧
      (∀ j : Nat, j < 10 → t.response.value.getLsbD (30 - j) = (bchParity d).getLsbD j) ∧
      t.response.value.getLsbD 31 = false) ∧
    ∀ v : Word, decode (.command (0x6#4 ++ v)) = .bchenc (v.extractLsb' 0 21)

/-- The encoding is the exclusive-or of the printed rows of the set bits (`41_bch.md` R134). The
spec derives the rows by computation. -/
def Obligations.BchEncodeIsXorOfRows : Prop :=
  ∀ d : BitVec 21, bchEncode d = xorOfRows d 0 bchRows

/-- Every codeword's four syndromes are 0 (`41_bch.md` R123), and a word with zero syndromes is, but
for bit 31, the codeword of its low 21 bits. The converse is inferred from the generator of R122. -/
def Obligations.SyndromesZeroOnCodewords : Prop :=
  (∀ (d : BitVec 21) (i : Nat), 1 ≤ i → i ≤ 4 → syndrome i (bchEncode d) = 0) ∧
    ∀ w : Word, syndrome 1 w = 0 → syndrome 3 w = 0 →
      codeBits w = codeBits (bchEncode (w.extractLsb' 0 21))

/-- `S2 = S1^2` and `S4 = S2^2` for every word (`41_bch.md` R125). The spec derives this. -/
def Obligations.EvenSyndromesAreSquares : Prop :=
  ∀ w : Word,
    syndrome 2 w = gmul (syndrome 1 w) (syndrome 1 w) ∧
      syndrome 4 w = gmul (syndrome 2 w) (syndrome 2 w)

/-- BCHFIX answers the corrected word and 4 + n, or ERR(BCHUncorrectable) with the payload; no
register is read or written (`46_host_commands.md` R275). That the error response has no events is
log entry 15. -/
def Obligations.BchfixResponse : Prop :=
  ∀ (w : Word) (s : State),
    ∃ t, exec (.bchfix w) s = .next t ∧ SameRegisters s t ∧
      (∀ (c : Word) (n : Nat), fixErrors w = some (c, n) →
        t.response = { status := .ok, value := c, aux := BitVec.ofNat 3 (4 + n), events := [] }) ∧
      (fixErrors w = none →
        t.response = { status := .err .bchUncorrectable, value := w, aux := 0, events := [] })

/-- A word at distance 0, 1 or 2 (over bits 30:0) from a codeword is corrected to it, with the
distance as `errors_fixed`, whatever bit 31 is (`41_bch.md` R131, where the spec derives it). -/
def Obligations.CorrectsUpToTwoErrors : Prop :=
  ∀ (d : BitVec 21) (w : Word),
    hamming (codeBits w) (codeBits (bchEncode d)) ≤ 2 →
      fixErrors w = some (bchEncode d, hamming (codeBits w) (codeBits (bchEncode d)))

/-- A successful return always holds a codeword, at the reported distance, with bit 31 = 0
(`41_bch.md` R130, R132). The spec infers this from the corrector's rules; bit 31 is its decision
D24. -/
def Obligations.SuccessHoldsACodeword : Prop :=
  ∀ (w c : Word) (n : Nat), fixErrors w = some (c, n) →
    c = bchEncode (c.extractLsb' 0 21) ∧ c.getLsbD 31 = false ∧ n ≤ 2 ∧
      n = hamming (codeBits w) (codeBits c)

/-! ### The read commands -/

/-- RDPB answers the word as collected, or is refused with BadAddress for an index above 87; no
register changes (`46_host_commands.md` R277, `20_memory.md` R71, R77). A refused command is a next
state (log entry 1), with value 0 and aux 0 (log entry 16). The port is the spec's decisions D30 and
D31. -/
def Obligations.RdpbReadsOrRefuses : Prop :=
  ∀ (p : Phase) (k : BitVec 7) (s : State),
    ∃ t, exec (.rdpb p k) s = .next t ∧ SameRegisters s t ∧
      (k.toNat ≤ 87 → t.response = okResponse (pbRead p k s)) ∧
      (87 < k.toNat → t.response = refusal .badAddress)

/-- RDCSR answers the register of the map of `10_state.md` R47, every field at its place and all
other bits 0; no register changes. The map is the spec's own decision D30. -/
def Obligations.RdcsrReadsTheMap : Prop :=
  ∀ (s : State) (n : BitVec 8) (v : Nat),
    (n, v) ∈ registerMap s →
    ∃ t, exec (.rdcsr n) s = .next t ∧ SameRegisters s t ∧
      t.response = okResponse (BitVec.ofNat 32 v) ∧ v < 2 ^ 32

/-- RDCSR of a number that is not in the map of `10_state.md` R47 is refused with BadAddress, and no
register changes (`46_host_commands.md` R278). A refused command is a next state (log entry 1), with
value 0 and aux 0 (log entry 16). The map and the code are the spec's decisions D30 and D31. -/
def Obligations.RdcsrRefusesUnlisted : Prop :=
  ∀ (n : BitVec 8) (s : State), n = 0x0F#8 ∨ 0x19 < n.toNat →
    ∃ t, exec (.rdcsr n) s = .next t ∧ SameRegisters s t ∧ t.response = refusal .badAddress

/-! ### SMP -/

/-- Step 2, and the write of `last_sample`: the DC estimate moves in SYNC1 only, and the
DC-corrected sample becomes `last_sample` (`42_demodulator.md` R152, R155). The value of a binary32
operand is log entry 12's. Exact arithmetic is the spec's decision D5, the write of `last_sample`
its D9. -/
def Obligations.SmpTracksDcOffset : Prop :=
  ∀ (v : Word) (s : State), SampleRuns v s →
    ∃ t, exec (.smp v) s = .next t ∧ t.demod.zeroOffset = offsetAfter v s ∧
      t.demod.lastSample = correctedSample v s

/-- Step 3: the envelope grows while locked in SYNC1, is frozen while locked elsewhere, and is
cleared while unlocked (`42_demodulator.md` R153). The value of a binary32 operand is log entry
12's. That `envelope` is cleared too is the spec's decision D10. -/
def Obligations.SmpTracksEnvelope : Prop :=
  ∀ (v : Word) (s : State), SampleRuns v s →
    ∃ t, exec (.smp v) s = .next t ∧
      (s.demod.locked = false →
        t.demod.envelope = 0 ∧ t.demod.envelopeSum = 0 ∧ t.demod.envelopeCount = 0) ∧
      (s.demod.locked = true → s.frame.state = .sync1 →
        t.demod.envelopeSum = s.demod.envelopeSum + |correctedSample v s| ∧
          t.demod.envelopeCount = s.demod.envelopeCount + 1 ∧
          t.demod.envelope = t.demod.envelopeSum / (t.demod.envelopeCount : Rat)) ∧
      (s.demod.locked = true → s.frame.state ≠ .sync1 →
        t.demod.envelope = s.demod.envelope ∧ t.demod.envelopeSum = s.demod.envelopeSum ∧
          t.demod.envelopeCount = s.demod.envelopeCount)

/-- Steps 1, 5 and 6: the phase is corrected at a crossing, advanced, and brought back by one period
when the symbol period completes, which bit 0 of the response reports (`42_demodulator.md` R151,
R155, R157). The value of a binary32 operand is log entry 12's. The comparisons, the truncation and
the sign of 0 are the spec's decisions D6, D7 and D8. -/
def Obligations.SmpAdvancesPhase : Prop :=
  ∀ (v : Word) (s : State), SampleRuns v s →
    ∃ t, exec (.smp v) s = .next t ∧
      t.demod.phase =
        phaseCorrected v s + phaseStep s - (if symbolEnds v s = true then periodLength s else 0) ∧
      t.response.value.getLsbD 0 = symbolEnds v s

/-- Step 5 continued: crossings in the middle window count up, one outside clears the count, and 20
while locked drop lock (`42_demodulator.md` R156). The premise on the counters is
`LockCountersBounded`. The value of a binary32 operand is log entry 12's. The reading of
'consecutively' is the spec's decision D12. -/
def Obligations.SmpCountsCrossings : Prop :=
  ∀ (v : Word) (s : State), SampleRuns v s → LockCountersBounded s →
    ∃ t, exec (.smp v) s = .next t ∧ t.demod.nonconsec.toNat = crossingsAfter v s ∧
      (.lockLost .crossings ∈ t.response.events ↔ dropsLock v s = true)

/-- Steps 4 and the symbol completion: mid-window samples are counted by level; at a completion the
modal symbol is decided, the counters are cleared, the rate is estimated and, while locked, the
sample and the symbol are counted (`42_demodulator.md` R152, R154, R158, R159; the unlocked case is
`SmpDetectsLock`). The premise of the last clause is `LockCountersBounded`. The value of a binary32
operand is log entry 12's. That a level's counter wraps at its width is the model's choice, log
entry 10. Ties and the place of the increment are the spec's decisions D13 and D14. -/
def Obligations.SmpSlicesAndDecides : Prop :=
  ∀ (v : Word) (s : State), SampleRuns v s →
    ∃ t, exec (.smp v) s = .next t ∧
      (symbolEnds v s = false →
        t.demod.symCounts = countsAfter v s ∧ t.demod.modalSymbol = s.demod.modalSymbol ∧
          t.demod.sampleCount = s.demod.sampleCount + 1 ∧
          t.demod.symbolCount = s.demod.symbolCount ∧ t.demod.symbolRate = s.demod.symbolRate) ∧
      (symbolEnds v s = true →
        IsModal (countsAfter v s) t.demod.modalSymbol ∧ t.demod.symCounts = ⟨0, 0, 0, 0⟩ ∧
          t.demod.symbolRate =
            ((s.demod.symbolCount : Rat) + 1) * (s.sampleFreq.toNat : Rat) /
              ((s.demod.sampleCount : Rat) + 1) ∧
          (LockCountersBounded s → holdsLock v s = true →
            t.demod.sampleCount = s.demod.sampleCount + 1 ∧
              t.demod.symbolCount = s.demod.symbolCount + 1))

/-- A symbol that completes while unlocked goes to the lock detector: its pair enters `lock_buffer`,
and the pattern sets `locked`, clears the buffer and restarts the two diagnostic counts
(`42_demodulator.md` R161, `30_encoding.md` R100). The synchronizer and the collector do not change.
The premise on the counters is `LockCountersBounded`. The value of a binary32 operand is log entry
12's. The bit pair and what 'reset counters' clears are the spec's decisions D15 and D16. -/
def Obligations.SmpDetectsLock : Prop :=
  ∀ (v : Word) (s : State), SampleRuns v s → LockCountersBounded s → symbolEnds v s = true →
    holdsLock v s = false →
    ∃ t, exec (.smp v) s = .next t ∧
      (let buffer := (s.demod.lockBuffer <<< 2) ||| (t.demod.modalSymbol ^^^ 1).setWidth 64
       (lockPattern buffer = true →
          t.demod.locked = true ∧ t.demod.lockBuffer = 0 ∧ t.demod.sampleCount = 0 ∧
            t.demod.symbolCount = 0 ∧ .lockAcquired ∈ t.response.events) ∧
        (lockPattern buffer = false →
          t.demod.locked = false ∧ t.demod.lockBuffer = buffer ∧
            t.demod.sampleCount = s.demod.sampleCount + 1 ∧
            t.demod.symbolCount = s.demod.symbolCount + 1 ∧
            .lockAcquired ∉ t.response.events)) ∧
      t.sync = s.sync ∧ t.coll = s.coll

/-- A symbol that completes while locked does exactly what SYM with that symbol does: to the
synchronizer, the state machine, the collector and `baud`, and with the same events between SYMBOL
and LOCK_LOST(1) (`42_demodulator.md` R160, R163, `70_reset_and_hazards.md` R330). The premise on
the counters is `LockCountersBounded`. The value of a binary32 operand is log entry 12's. -/
def Obligations.SmpForwardsLikeSym : Prop :=
  ∀ (v : Word) (s : State), SampleRuns v s → LockCountersBounded s → symbolEnds v s = true →
    holdsLock v s = true →
    ∃ t u, exec (.smp v) s = .next t ∧ exec (.sym t.demod.modalSymbol) s = .next u ∧
      t.sync = u.sync ∧ t.frame = u.frame ∧ t.coll = u.coll ∧ t.demod.baud = u.demod.baud ∧
      t.demod.lockBuffer = s.demod.lockBuffer ∧
      t.response.events =
        .symbol t.demod.modalSymbol true :: u.response.events ++
          (if timesOut v s = true then [.lockLost .timeout] else [])

/-- The timeout: cleared by a crossing and while unlocked, raised at every symbol completion, and
above 100 it drops lock (`42_demodulator.md` R153, R155, R162). The premise on the counters is
`LockCountersBounded`. The value of a binary32 operand is log entry 12's. That 'reset' means 0 is
the spec's decision D10. -/
def Obligations.SmpCountsTimeout : Prop :=
  ∀ (v : Word) (s : State), SampleRuns v s → LockCountersBounded s →
    ∃ t, exec (.smp v) s = .next t ∧
      t.demod.timeout.toNat = timeoutBefore v s + (if symbolEnds v s = true then 1 else 0) ∧
      (symbolEnds v s = false → t.demod.locked = holdsLock v s) ∧
      (symbolEnds v s = true → holdsLock v s = true → t.demod.locked = !timesOut v s)

/-- The order of the events of one SMP: LOCK_LOST(0), SYMBOL, at most one event of the state machine
or LOCK_ACQUIRED, LOCK_LOST(1) (`42_demodulator.md` R163, `60_exceptions.md` R298); and the
response's fields `modal_symbol` and `locked` are those after the command (`46_host_commands.md`
R273). The premise on the counters is `LockCountersBounded`. The value of a binary32 operand is log
entry 12's. The order is derived in R163; the SYMBOL event is the spec's decision D38. -/
def Obligations.SmpEventOrder : Prop :=
  ∀ (v : Word) (s : State), SampleRuns v s → LockCountersBounded s →
    ∃ t, exec (.smp v) s = .next t ∧ t.response.status = .ok ∧ t.response.aux = 0 ∧
      t.response.value.extractLsb' 1 2 = t.demod.modalSymbol ∧
      t.response.value.getLsbD 3 = t.demod.locked ∧ t.response.value.toNat < 16 ∧
      ∃ middle last : List Event,
        t.response.events =
            (if dropsLock v s = true then [.lockLost .crossings] else []) ++
              (if symbolEnds v s = true then
                .symbol t.demod.modalSymbol (holdsLock v s) :: middle ++ last else []) ∧
          middle.length ≤ 1 ∧ (last = [] ∨ last = [.lockLost .timeout]) ∧
          (∀ e ∈ middle, ∀ c m f, e ≠ .lockLost c ∧ e ≠ .symbol m f)

/-- What SMP leaves alone: the configuration always; and, unless a symbol completes while locked,
the synchronizer, the collector with every word of its memory, and the state machine but for the
SYNC1 that step 3 forces while unlocked, which also sets `baud` to 1600 (`42_demodulator.md` R153,
D11). The premise on the counters is `LockCountersBounded`. The value of a binary32 operand is log
entry 12's. -/
def Obligations.SmpFrame : Prop :=
  ∀ (v : Word) (s : State), SampleRuns v s → LockCountersBounded s →
    ∃ t, exec (.smp v) s = .next t ∧ SameConfiguration s t ∧
      (symbolEnds v s = false ∨ holdsLock v s = false →
        t.sync = s.sync ∧ t.coll = s.coll ∧
          (∀ (p : Phase) (k : BitVec 7), pbRead p k t = pbRead p k s) ∧
          (s.demod.locked = true → t.frame = s.frame ∧ t.demod.baud = s.demod.baud) ∧
          (s.demod.locked = false →
            t.frame = { s.frame with state := .sync1 } ∧ t.demod.baud = .b1600)) ∧
      (symbolEnds v s = false ∨ holdsLock v s = true →
        t.demod.lockBuffer = s.demod.lockBuffer)

/-- After a sample processed while unlocked that does not acquire lock, the state machine is in
SYNC1 at 1600 baud and the envelope registers are 0; a sample after which `locked` is 0 and which
emits no LOCK_LOST is such a sample (`10_state.md` R53 (a)). The spec derives this invariant from
R153. -/
def Obligations.UnlockedSampleForcesSync1 : Prop :=
  ∀ (v : Word) (s : State), SampleRuns v s →
    ∃ t, exec (.smp v) s = .next t ∧
      (t.demod.locked = false → (∀ c, Event.lockLost c ∉ t.response.events) →
        t.frame.state = .sync1 ∧ t.demod.baud = .b1600 ∧ t.demod.envelope = 0 ∧
          t.demod.envelopeSum = 0 ∧ t.demod.envelopeCount = 0)

/-- Nothing reads the diagnostics: two states that differ only in `sample_count`, `symbol_count` and
`symbol_rate` go, by any instruction but RDCSR, to states that differ only in them (`10_state.md`
R24, `42_demodulator.md` R159). -/
def Obligations.DiagnosticsAreNotRead : Prop :=
  ∀ (i : Instr) (s s' t : State), (∀ n, i ≠ .rdcsr n) → SameButDiagnostics s s' →
    exec i s = .next t → ∃ t', exec i s' = .next t' ∧ SameButDiagnostics t t'

/-! ### SYM, by the state on entry -/

/-- SYM in SYNC1: the raw symbol's bit enters `sync_buf`; a match at either polarity records
polarity, code and mode, emits SYNC_FOUND and starts the FIW; without a match nothing else is
written (`45_state_machine.md` R242, `43_synchronizer.md` R200 to R206). -/
def Obligations.SymInSync1 : Prop :=
  ∀ (q : Symbol) (s : State), s.configured = true → s.frame.state = .sync1 →
    ∃ t, exec (.sym q) s = .next t ∧ t.demod = s.demod ∧ t.coll = s.coll ∧
      SameConfiguration s t ∧
      ((∀ pol b, ¬FoundSync (bufferAfter s q) pol b) →
        t.sync = { s.sync with syncBuf := bufferAfter s q } ∧ t.frame = s.frame ∧
          t.response = okResponse 0) ∧
      ∀ (pol : Polarity) (b : BitVec 64), FoundSync (bufferAfter s q) pol b →
        (let code := b.extractLsb' 48 16
         t.sync =
            { syncBuf := bufferAfter s q
              syncCode := code.setWidth 32
              baud := (tableMode code).1
              levels := (tableMode code).2.1
              polarity := pol } ∧
          t.frame = { s.frame with fiwCount := 0, fiwRaw := 0, state := .fiw } ∧
          t.response =
            { okResponse 1 with
              events :=
                [.syncFound code (tableMode code).1 (tableMode code).2.1 pol
                  (tableMode code).2.2] })

/-- A 64-bit value and its complement are never both accepted as a sync word (`43_synchronizer.md`
R203). The spec derives this from R202. -/
def Obligations.OnePolarityAccepts : Prop :=
  ∀ b : BitVec 64, accepts b = true → accepts (~~~b) = false

/-- SYM in FIW before the 48th symbol: the count goes up, and after the 16 dotting symbols the
rectified symbol's upper bit enters `fiw_raw` at the top; nothing else changes
(`45_state_machine.md` R243). The bit and the reading of 'after 16' are the spec's decision D21. -/
def Obligations.SymInFiwCollects : Prop :=
  ∀ (q : Symbol) (s : State), s.configured = true → s.frame.state = .fiw →
    s.frame.fiwCount.toNat < 47 →
    ∃ t, exec (.sym q) s = .next t ∧
      t.frame = { s.frame with fiwCount := s.frame.fiwCount + 1, fiwRaw := fiwAfter s q } ∧
      t.demod = s.demod ∧ t.sync = s.sync ∧ t.coll = s.coll ∧ SameConfiguration s t ∧
      t.response = okResponse 1

/-- SYM at the 48th FIW symbol: an uncorrectable word or a wrong checksum goes back to SYNC1 with
FIW_REJECTED; a good word is kept corrected, its fields extracted, FIW_ACCEPTED emitted, the
demodulator's baud set, and SYNC2 entered (`45_state_machine.md` R244, R245, `30_encoding.md` R96,
R97). The fields' places, the sum modulo 16, the cleared count and the kept word are the spec's
decisions D22, D23, D26 and D36. -/
def Obligations.SymInFiwChecks : Prop :=
  ∀ (q : Symbol) (s : State), s.configured = true → s.frame.state = .fiw →
    s.frame.fiwCount.toNat = 47 →
    ∃ t, exec (.sym q) s = .next t ∧ t.sync = s.sync ∧ t.coll = s.coll ∧
      SameConfiguration s t ∧
      (fixErrors (fiwAfter s q) = none →
        t.frame = { s.frame with fiwCount := 48, fiwRaw := fiwAfter s q, state := .sync1 } ∧
          t.demod = s.demod ∧
          t.response =
            { okResponse 0 with events := [.fiwRejected .uncorrectable (fiwAfter s q)] }) ∧
      ∀ (w : Word) (n : Nat), fixErrors (fiwAfter s q) = some (w, n) →
        (fiwChecksumPasses w = false →
          t.frame = { s.frame with fiwCount := 48, fiwRaw := w, state := .sync1 } ∧
            t.demod = s.demod ∧
            t.response = { okResponse 0 with events := [.fiwRejected .checksum w] }) ∧
        (fiwChecksumPasses w = true →
          t.frame =
              { s.frame with
                fiwCount := 48
                fiwRaw := w
                cycleNo := w.extractLsb' 4 4
                frameNo := w.extractLsb' 8 7
                sync2Count := 0
                state := .sync2 } ∧
            t.demod = { s.demod with baud := s.sync.baud } ∧
            t.response =
              { okResponse 2 with
                events := [.fiwAccepted (w.extractLsb' 4 4) (w.extractLsb' 8 7) w n] })

/-- The FIW checksum passes exactly when the nibbles of the 21 used bits sum to 15 modulo 16
(`30_encoding.md` R97). The sum modulo 16 is the spec's own decision D23. -/
def Obligations.FiwChecksumIsNibbleSum : Prop :=
  ∀ w : Word,
    fiwChecksumPasses w = true ↔
      (w.toNat % 16 + w.toNat / 2 ^ 4 % 16 + w.toNat / 2 ^ 8 % 16 + w.toNat / 2 ^ 12 % 16 +
          w.toNat / 2 ^ 16 % 16 + w.toNat / 2 ^ 20 % 2) % 16 = 15

/-- SYM in SYNC2: the count goes up whatever the symbol; at 40 or 80 symbols every phase-buffer
word, the idle counts, the toggle and the bit counter are cleared and DATA is entered
(`45_state_machine.md` R246, `44_collector.md` R228). What the clear covers and the comparison are
the spec's decisions D26 and D27. -/
def Obligations.SymInSync2 : Prop :=
  ∀ (q : Symbol) (s : State), s.configured = true → s.frame.state = .sync2 →
    s.frame.sync2Count.toNat < sync2Bound s →
    ∃ t, exec (.sym q) s = .next t ∧ t.demod = s.demod ∧ t.sync = s.sync ∧
      SameConfiguration s t ∧
      (s.frame.sync2Count.toNat + 1 < sync2Bound s →
        t.frame = { s.frame with sync2Count := s.frame.sync2Count + 1 } ∧ t.coll = s.coll ∧
          t.response = okResponse 2) ∧
      (s.frame.sync2Count.toNat + 1 = sync2Bound s →
        t.frame =
            { s.frame with
              sync2Count := s.frame.sync2Count + 1, dataCount := 0, state := .data } ∧
          (∀ (p : Phase) (k : BitVec 7), pbRead p k t = 0) ∧
          t.coll.idleCount = ⟨0, 0, 0, 0⟩ ∧ t.coll.phaseToggle = false ∧
          t.coll.dataBitCounter = 0 ∧ t.response = okResponse 3)

/-- SYM in DATA, the collector step: the bits of the rectified symbol enter one word of each phase
written at the top and every other word reads as before; at an idle-check point the idle words just
written are counted; the toggle and the bit counter move as the baud says (`44_collector.md` R220 to
R226, R229). The order of the sub-steps is the spec's decision D28. -/
def Obligations.SymInDataCollects : Prop :=
  ∀ (q : Symbol) (s : State), s.configured = true → s.frame.state = .data →
    s.coll.dataBitCounter.toNat ≤ 2815 → Memory.wf s.coll.pb = true → IdleCountsBounded s →
    ∃ t, exec (.sym q) s = .next t ∧
      CollectedStep q s t

/-- SYM in DATA, the count and the end of the frame: full at 2816 or 5632 symbols, idle when every
active phase has an idle word; either ends the frame with FRAME_READY, 1600 baud and SYNC1. Whether
or not the frame ends, the synchronizer keeps what it holds and the collector holds what its step
left (`45_state_machine.md` R247, R248, `44_collector.md` R227). The baud of the duration is the
spec's decision D27. -/
def Obligations.SymInDataEndsFrame : Prop :=
  ∀ (q : Symbol) (s : State), s.configured = true → s.frame.state = .data →
    s.coll.dataBitCounter.toNat ≤ 2815 → s.frame.dataCount.toNat < dataBound s →
    ∃ t, exec (.sym q) s = .next t ∧ t.sync = s.sync ∧ SameConfiguration s t ∧
      (Memory.wf s.coll.pb = true → IdleCountsBounded s → CollectedStep q s t) ∧
      (let full := decide (s.frame.dataCount.toNat + 1 = dataBound s)
       let idle := activeIdle s.sync.baud s.sync.levels t.coll.idleCount
       (full = true ∨ idle = true →
          t.frame = { s.frame with dataCount := s.frame.dataCount + 1, state := .sync1 } ∧
            t.demod = { s.demod with baud := .b1600 } ∧
            t.response =
              { okResponse 0 with
                events :=
                  [.frameReady idle full s.sync.baud s.sync.levels s.sync.polarity
                    s.frame.cycleNo s.frame.frameNo] }) ∧
        (full = false → idle = false →
          t.frame = { s.frame with dataCount := s.frame.dataCount + 1 } ∧ t.demod = s.demod ∧
            t.response = okResponse 3))

/-- A symbol collected in DATA at a counter value above 2815 has no word to go to (`20_memory.md`
R71): SYM and the row STATE_DATA stop there with a fault of the model's own, in states no run of
commands reaches (log entry 6). -/
def Obligations.MissingWordStops : Prop :=
  ∀ s : State, 2815 < s.coll.dataBitCounter.toNat →
    (∀ q : Symbol, s.configured = true → s.frame.state = .data →
      ∃ p, exec (.sym q) s = .fault (.noSuchPhaseWord p (wordIndex s))) ∧
      ∃ p, exec .stateData s = .fault (.noSuchPhaseWord p (wordIndex s))

/-- What SYM leaves alone: the configuration, and every demodulator register but `baud`
(`46_host_commands.md` R274); the collector with its memory in SYNC1, in FIW and in SYNC2 before the
clear; in DATA every word but those the collector's step writes; and it reports `state` after the
command. That SYM runs whatever `locked` is is the spec's decision D32. -/
def Obligations.SymFrame : Prop :=
  ∀ (q : Symbol) (s : State), s.configured = true →
    (s.frame.state = .data → s.coll.dataBitCounter.toNat ≤ 2815) →
    ∃ t, exec (.sym q) s = .next t ∧ SameConfiguration s t ∧
      t.demod = { s.demod with baud := t.demod.baud } ∧
      (t.demod.baud ≠ s.demod.baud → s.frame.state = .fiw ∨ s.frame.state = .data) ∧
      (s.frame.state ≠ .sync1 → t.sync = s.sync) ∧
      (s.frame.state = .sync1 ∨ s.frame.state = .fiw → t.coll = s.coll) ∧
      (s.frame.state = .sync2 → (s.frame.sync2Count + 1).toNat ≠ sync2Bound s →
        t.coll = s.coll) ∧
      (s.frame.state = .data → Memory.wf s.coll.pb = true → ∀ (p : Phase) (k : BitVec 7),
        ¬(stepWrites s p = true ∧ k = wordIndex s) → pbRead p k t = pbRead p k s) ∧
      t.response.status = .ok ∧ t.response.aux = 0 ∧
      t.response.value = (frameStateCode t.frame.state).setWidth 32 ∧
      (∀ m f, Event.symbol m f ∉ t.response.events)

/-- Every change of `state` that SYM makes is a transition of `45_state_machine.md` R250, with the
event of its row. -/
def Obligations.SymMakesATransition : Prop :=
  ∀ (q : Symbol) (s : State), s.configured = true →
    (s.frame.state = .data → s.coll.dataBitCounter.toNat ≤ 2815) →
    ∃ t, exec (.sym q) s = .next t ∧
      Transition s.frame.state t.frame.state t.response.events

/-- A block that receives every symbol inverted, from the twin state, goes through the twin states:
the same frame at the other polarity (`43_synchronizer.md` R203, R207, R209 (b)). The spec derives
this for the sync buffer (R209). -/
def Obligations.InvertedSymbolsGiveTheTwin : Prop :=
  ∀ (q : Symbol) (s t : State), exec (.sym q) s = .next t →
    exec (.sym (3 - q)) (invertedTwin s) = .next (invertedTwin t)

/-- A phase-buffer word changes only by RST, by a successful CFG, or by a symbol handled in SYNC2 or
DATA: no other command touches the memory (`44_collector.md` R228, `70_reset_and_hazards.md` R325).
-/
def Obligations.PhaseBufferWriters : Prop :=
  ∀ (i : Instr) (s t : State) (p : Phase) (k : BitVec 7), isHostCommand i = true →
    exec i s = .next t → pbRead p k t ≠ pbRead p k s →
      i = .rst ∨ (∃ f, i = .cfg f ∧ f ≠ 0) ∨
        (((∃ q, i = .sym q) ∨ ∃ v, i = .smp v) ∧
          (s.frame.state = .sync2 ∨ s.frame.state = .data))

/-- After 32 insertions at the top the first bit received is in bit 0 and the last in bit 31
(`20_memory.md` R73). -/
def Obligations.ThirtyTwoInsertionsFillAWord : Prop :=
  ∀ (w : Word) (bits : List Bool), bits.length = 32 →
    ∀ k : Nat, k < 32 → (bits.foldl shiftInTop w).getLsbD k = bits.getD k false

/-- Twenty-four symbols shifted into any lock buffer leave the lock pattern exactly when they
alternate 0, 3, 0, 3, ... or 3, 0, 3, 0, ... (`30_encoding.md` R100, `42_demodulator.md` R161). The
bit pair is the spec's decision D15. -/
def Obligations.LockPatternIsAlternation : Prop :=
  ∀ (b : BitVec 64) (qs : List Symbol), qs.length = 24 →
    (lockPattern (qs.foldl (fun x q => (x <<< 2) ||| (q ^^^ 1).setWidth 64) b) = true ↔
      (∃ q : Symbol, (q = 0 ∨ q = 3) ∧
        ∀ k : Nat, k < 24 → qs.getD k 0 = if k % 2 = 0 then q else 3 - q))

/-! ### The rows that are no host command -/

/-- The rows of the mode table, each run on its own, record the code with the row's baud and levels
and change nothing else (`30_encoding.md` R94, R95). That a row is a step of its own is the model's
(log entry 3). -/
def Obligations.SyncCodeRowsRecordTheMode : Prop :=
  ∀ (c : BitVec 16) (s : State) (i : Instr) (b : Baud) (l : Levels),
    (i, b, l) ∈ modeRows c →
    exec i s =
      .next
        { s with
          sync := { s.sync with syncCode := c.setWidth 32, baud := b, levels := l }
          response := okResponse 0 }

/-- A sync match leaves in `sync_info` the mode that the row of its code records: running the row
the code decodes to, after the match, changes no register (`43_synchronizer.md` R205, R206). That a
row is a step of its own is the model's (log entry 3). -/
def Obligations.SyncMatchUsesItsRow : Prop :=
  ∀ (q : Symbol) (s : State), s.configured = true → s.frame.state = .sync1 →
    (∃ pol b, FoundSync (bufferAfter s q) pol b) →
    ∃ t u, exec (.sym q) s = .next t ∧
      exec (decode (.syncCode (t.sync.syncCode.setWidth 16))) t = .next u ∧ SameRegisters t u

/-- The rows of the symbol table, each run on its own, decode the four bits of `30_encoding.md` R91,
`bit_a` and `bit_b` after rectification, and change no register. That a row is a step of its own and
leaves the bits in a latch is the model's (log entry 3). -/
def Obligations.SymbolRowsDecodeFourBits : Prop :=
  ∀ (s : State) (i : Instr) (n v : SymbolBits),
    (i, n, v) ∈ symbolRows →
    exec i s =
      .next
        { s with
          symbolIn := if s.sync.polarity = .inverted then v else n
          response := okResponse 0 }

/-- SYM is the row of its symbol followed by the row of `state`: exactly one handler runs, the one
`state` selects on entry, on the bits decoded on entry (`45_state_machine.md` R240, R241,
`30_encoding.md` R91, R108). That a row is a step of its own is the model's (log entry 3). -/
def Obligations.SymIsSymbolRowThenStateRow : Prop :=
  ∀ (q : Symbol) (s : State), s.configured = true →
    (s.frame.state = .data → s.coll.dataBitCounter.toNat ≤ 2815) →
    ∃ t u v, exec (.sym q) s = .next t ∧ exec (decode (.symbol q)) s = .next u ∧
      exec (decode (.stateCode (frameStateCode s.frame.state))) u = .next v ∧
      SameRegisters t v ∧ v.response.events = t.response.events

/-- The STATE rows complete in every state (STATE_DATA while the collector's word exists), each
running its own handler on the symbol input: with the bits of a symbol there, whatever `state` and
`configured` are, a row leaves in every register what SYM with that symbol leaves when `state` holds
the row's code, but that `state` itself is written only if the handler writes it. A row changes
nothing outside its handler's registers and, in the memory, outside the words the handler clears or
writes (`30_encoding.md` R108, `45_state_machine.md` R242 to R248). That a row is a step of its own
is the model's (log entry 3), and so is the wrap of a count at its width (log entry 10). -/
def Obligations.StateRowsRunTheirHandler : Prop :=
  ∀ s : State,
    (∃ t, exec .stateSync1 s = .next t ∧
        t.sync.syncBuf = (s.sync.syncBuf <<< 1) ||| (if s.symbolIn.syncBit then 1 else 0) ∧
        t.frame =
          { s.frame with
            fiwCount := t.frame.fiwCount, fiwRaw := t.frame.fiwRaw, state := t.frame.state } ∧
        t.demod = s.demod ∧ t.coll = s.coll ∧ SameConfiguration s t) ∧
      (∃ t, exec .stateFiw s = .next t ∧
        t.frame =
          { s.frame with
            fiwCount := s.frame.fiwCount + 1
            fiwRaw := t.frame.fiwRaw
            cycleNo := t.frame.cycleNo
            frameNo := t.frame.frameNo
            sync2Count := t.frame.sync2Count
            state := t.frame.state } ∧
        t.demod = { s.demod with baud := t.demod.baud } ∧ t.sync = s.sync ∧ t.coll = s.coll ∧
        SameConfiguration s t) ∧
      (∃ t, exec .stateSync2 s = .next t ∧
        t.frame =
          { s.frame with
            sync2Count := s.frame.sync2Count + 1
            dataCount := t.frame.dataCount
            state := t.frame.state } ∧
        ((s.frame.sync2Count + 1).toNat ≠ sync2Bound s → t.coll = s.coll) ∧
        ((s.frame.sync2Count + 1).toNat = sync2Bound s →
          ∀ (p : Phase) (k : BitVec 7), pbRead p k t = 0) ∧
        t.demod = s.demod ∧ t.sync = s.sync ∧ SameConfiguration s t) ∧
      (s.coll.dataBitCounter.toNat ≤ 2815 →
        ∃ t, exec .stateData s = .next t ∧
          t.frame =
            { s.frame with dataCount := s.frame.dataCount + 1, state := t.frame.state } ∧
          (Memory.wf s.coll.pb = true → ∀ (p : Phase) (k : BitVec 7),
            ¬(stepWrites s p = true ∧ k = wordIndex s) → pbRead p k t = pbRead p k s) ∧
          t.demod = { s.demod with baud := t.demod.baud } ∧ t.sync = s.sync ∧
          SameConfiguration s t) ∧
      ∀ (st : FrameState) (q : Symbol), InputIsSymbol st q s →
        (st = .data → s.coll.dataBitCounter.toNat ≤ 2815) →
        ∃ t u, exec (decode (.stateCode (frameStateCode st))) s = .next t ∧
          exec (.sym q) { s with configured := true, frame := { s.frame with state := st } } =
            .next u ∧
          t.demod = u.demod ∧ t.sync = u.sync ∧ t.coll = u.coll ∧
          t.frame =
            { u.frame with
              state := if u.frame.state = st then s.frame.state else u.frame.state } ∧
          SameConfiguration s t ∧
          t.response = { okResponse 0 with events := u.response.events }

/-! ### The machine as a whole -/

/-- Every step keeps the canonical form of the memory. -/
def Obligations.MemoryStaysCanonical : Prop :=
  ∀ s t : State, Memory.wf s.coll.pb = true → step s = .next t → Memory.wf t.coll.pb = true

/-- Whatever the instruction: the words submitted after it stay submitted, and the symbol input
changes only by a symbol row, by RST or by a successful CFG. Both fields are the model's (log
entries 2 and 3). -/
def Obligations.PortFieldsStay : Prop :=
  ∀ (i : Instr) (s t : State), exec i s = .next t →
    t.pending = s.pending ∧
      (t.symbolIn = s.symbolIn ∨ i ∈ [.symbol0, .symbol1, .symbol2, .symbol3] ∨ i = .rst ∨
        ∃ f : Word, i = .cfg f ∧ f ≠ 0)

/-- The block right after power-on meets the invariant (`10_state.md` R49, R53). The zeros are the
spec's decision D29. -/
def Obligations.WellRunAtReset : Prop := WellRun State.reset

/-- The block never stops, and every command keeps the invariant: from every state that meets it a
step answers a next state that meets it (`00_scope.md` R6, `10_state.md` R47, R53). The spec derives
the invariants of R53. The invariant says that the words submitted are commands (log entries 2 and
3). -/
def Obligations.StepKeepsWellRun : Prop :=
  ∀ s : State, WellRun s → ∃ t, step s = .next t ∧ WellRun t
end

