-- ==== Sys2Proof/Laws/Bch.lean ====
section
/-! SUPPORT. The field GF(2^5) and the syndromes: the tables follow the primitive polynomial, the
logarithm inverts the antilogarithm, a syndrome is additive and ignores bit 31. -/

namespace Sys2Proof.Machine

/-! ### The field (`41_bch.md` R121) -/

/-- Each table entry is the one before times alpha, modulo the primitive polynomial. -/
theorem alphaTo_succ : ∀ i : Fin 31,
    (alphaTo (i.val + 1)).setWidth 6 =
      (if (((alphaTo i.val).setWidth 6) <<< 1).getLsbD 5 = true then
        (((alphaTo i.val).setWidth 6) <<< 1) ^^^ 0b100101#6
      else ((alphaTo i.val).setWidth 6) <<< 1) := by
  decide +kernel

@[simp] theorem alphaTo_zero : alphaTo 0 = 1#5 := rfl

/-- Exponents count modulo 31. -/
theorem alphaTo_mod (i : Nat) : alphaTo (i % 31) = alphaTo i := by
  unfold alphaTo
  rw [Nat.mod_mod]

theorem indexOf_alphaTo : ∀ i : Fin 31, indexOf (alphaTo i.val) = some i.val := by decide +kernel

theorem alphaTo_indexOf : ∀ v : BitVec 5, v ≠ 0#5 →
    ∃ i : Fin 31, indexOf v = some i.val ∧ alphaTo i.val = v := by
  decide +kernel

@[simp] theorem gmul_zero_left (b : BitVec 5) : gmul 0#5 b = 0#5 := rfl

theorem gmul_comm : ∀ a b : BitVec 5, gmul a b = gmul b a := by decide +kernel

theorem gmul_xor : ∀ a b c : BitVec 5, gmul a (b ^^^ c) = gmul a b ^^^ gmul a c := by
  decide +kernel

/-- Squaring is additive in characteristic 2 (`41_bch.md` R125). -/
theorem square_xor : ∀ a b : BitVec 5, gmul (a ^^^ b) (a ^^^ b) = gmul a a ^^^ gmul b b := by
  decide +kernel

theorem gmul_ginv : ∀ a : BitVec 5, a ≠ 0#5 → gmul a (ginv a) = 1#5 := by decide +kernel

/-! ### The syndromes (`41_bch.md` R124, R125) -/

@[simp] theorem codeBit_xor (v w : Word) (j : Nat) :
    codeBit (v ^^^ w) j = (codeBit v j ^^ codeBit w j) := by
  simp [codeBit]

theorem syndromeOver_xor (i : Nat) (v w : Word) (l : List Nat) :
    syndromeOver i (v ^^^ w) l = syndromeOver i v l ^^^ syndromeOver i w l := by
  induction l with
  | nil => simp [syndromeOver]
  | cons j rest ih =>
    simp only [syndromeOver, ih, codeBit_xor]
    generalize alphaTo (i * j) = a
    generalize syndromeOver i v rest = b
    generalize syndromeOver i w rest = c
    apply BitVec.eq_of_getLsbD_eq
    intro k _
    cases codeBit v j <;> cases codeBit w j <;> simp <;>
      cases a.getLsbD k <;> cases b.getLsbD k <;> cases c.getLsbD k <;> rfl

/-- A syndrome of a sum is the sum of the syndromes. -/
theorem syndrome_xor (i : Nat) (v w : Word) :
    syndrome i (v ^^^ w) = syndrome i v ^^^ syndrome i w :=
  syndromeOver_xor i v w _

theorem codeBit_codewordPart (w : Word) {j : Nat} (h : j ≤ 30) :
    codeBit (codewordPart w) j = codeBit w j := by
  have mask : ∀ k : Fin 31, (0x7FFFFFFF#32).getLsbD k.val = true := by decide
  have hk := mask ⟨30 - j, by omega⟩
  simp only [codeBit, codewordPart, BitVec.getLsbD_and] at hk ⊢
  rw [hk, Bool.and_true]

/-- A syndrome does not look at bit 31. -/
theorem syndrome_codewordPart (i : Nat) (w : Word) :
    syndrome i (codewordPart w) = syndrome i w := by
  have key : ∀ l : List Nat, (∀ j ∈ l, j ≤ 30) →
      syndromeOver i (codewordPart w) l = syndromeOver i w l := by
    intro l hl
    induction l with
    | nil => rfl
    | cons j rest ih =>
      simp only [syndromeOver]
      rw [ih fun k hk => hl k (List.mem_cons_of_mem _ hk),
        codeBit_codewordPart w (hl j List.mem_cons_self)]
  exact key _ fun j hj => Nat.le_of_lt_succ (List.mem_range.1 hj)

/-- The syndromes of a single 1 at position `j` (`41_bch.md` R125). -/
theorem syndrome_positionMask : ∀ j : Fin 31,
    syndrome 1 (positionMask j.val) = alphaTo j.val ∧
      syndrome 2 (positionMask j.val) = alphaTo (2 * j.val) ∧
      syndrome 3 (positionMask j.val) = alphaTo (3 * j.val) ∧
      syndrome 4 (positionMask j.val) = alphaTo (4 * j.val) := by
  decide +kernel

end Sys2Proof.Machine
end

