-- ==== Sys2Proof/Laws/State.lean ====
section
/-! SUPPORT. What each update of the state leaves in each field: one lemma per field per update,
true by `rfl`, so that no later proof unfolds an update. -/

namespace Sys2Proof.Machine

variable (s : State)

/-! ### `pbWrite` -/

@[simp] theorem pbWrite_configured (p : Phase) (i : BitVec 7) (v : Word) :
    (pbWrite p i v s).configured =
      s.configured :=
  rfl
@[simp] theorem pbWrite_sampleFreq (p : Phase) (i : BitVec 7) (v : Word) :
    (pbWrite p i v s).sampleFreq =
      s.sampleFreq :=
  rfl
@[simp] theorem pbWrite_demod (p : Phase) (i : BitVec 7) (v : Word) :
    (pbWrite p i v s).demod =
      s.demod :=
  rfl
@[simp] theorem pbWrite_sync (p : Phase) (i : BitVec 7) (v : Word) :
    (pbWrite p i v s).sync =
      s.sync :=
  rfl
@[simp] theorem pbWrite_frame (p : Phase) (i : BitVec 7) (v : Word) :
    (pbWrite p i v s).frame =
      s.frame :=
  rfl
@[simp] theorem pbWrite_coll (p : Phase) (i : BitVec 7) (v : Word) :
    (pbWrite p i v s).coll =
      { s.coll with pb := memWrite s.coll.pb (pbAddress p i) v } :=
  rfl
@[simp] theorem pbWrite_pending (p : Phase) (i : BitVec 7) (v : Word) :
    (pbWrite p i v s).pending =
      s.pending :=
  rfl
@[simp] theorem pbWrite_response (p : Phase) (i : BitVec 7) (v : Word) :
    (pbWrite p i v s).response =
      s.response :=
  rfl
@[simp] theorem pbWrite_symbolIn (p : Phase) (i : BitVec 7) (v : Word) :
    (pbWrite p i v s).symbolIn =
      s.symbolIn :=
  rfl

/-! ### `beginResponse` -/

@[simp] theorem beginResponse_configured : (beginResponse s).configured = s.configured := rfl
@[simp] theorem beginResponse_sampleFreq : (beginResponse s).sampleFreq = s.sampleFreq := rfl
@[simp] theorem beginResponse_demod : (beginResponse s).demod = s.demod := rfl
@[simp] theorem beginResponse_sync : (beginResponse s).sync = s.sync := rfl
@[simp] theorem beginResponse_frame : (beginResponse s).frame = s.frame := rfl
@[simp] theorem beginResponse_coll : (beginResponse s).coll = s.coll := rfl
@[simp] theorem beginResponse_pending : (beginResponse s).pending = s.pending := rfl
@[simp] theorem beginResponse_response : (beginResponse s).response = Response.empty := rfl
@[simp] theorem beginResponse_symbolIn : (beginResponse s).symbolIn = s.symbolIn := rfl

/-! ### `emit` -/

@[simp] theorem emit_configured (e : Event) : (emit e s).configured = s.configured := rfl
@[simp] theorem emit_sampleFreq (e : Event) : (emit e s).sampleFreq = s.sampleFreq := rfl
@[simp] theorem emit_demod (e : Event) : (emit e s).demod = s.demod := rfl
@[simp] theorem emit_sync (e : Event) : (emit e s).sync = s.sync := rfl
@[simp] theorem emit_frame (e : Event) : (emit e s).frame = s.frame := rfl
@[simp] theorem emit_coll (e : Event) : (emit e s).coll = s.coll := rfl
@[simp] theorem emit_pending (e : Event) : (emit e s).pending = s.pending := rfl
@[simp] theorem emit_response (e : Event) :
    (emit e s).response =
      { s.response with events := s.response.events ++ [e] } :=
  rfl
@[simp] theorem emit_symbolIn (e : Event) : (emit e s).symbolIn = s.symbolIn := rfl

/-! ### `setValue` -/

@[simp] theorem setValue_configured (v : Word) : (setValue v s).configured = s.configured := rfl
@[simp] theorem setValue_sampleFreq (v : Word) : (setValue v s).sampleFreq = s.sampleFreq := rfl
@[simp] theorem setValue_demod (v : Word) : (setValue v s).demod = s.demod := rfl
@[simp] theorem setValue_sync (v : Word) : (setValue v s).sync = s.sync := rfl
@[simp] theorem setValue_frame (v : Word) : (setValue v s).frame = s.frame := rfl
@[simp] theorem setValue_coll (v : Word) : (setValue v s).coll = s.coll := rfl
@[simp] theorem setValue_pending (v : Word) : (setValue v s).pending = s.pending := rfl
@[simp] theorem setValue_response (v : Word) :
    (setValue v s).response =
      { s.response with value := v } :=
  rfl
@[simp] theorem setValue_symbolIn (v : Word) : (setValue v s).symbolIn = s.symbolIn := rfl

/-! ### `setAux` -/

@[simp] theorem setAux_configured (v : BitVec 3) : (setAux v s).configured = s.configured := rfl
@[simp] theorem setAux_sampleFreq (v : BitVec 3) : (setAux v s).sampleFreq = s.sampleFreq := rfl
@[simp] theorem setAux_demod (v : BitVec 3) : (setAux v s).demod = s.demod := rfl
@[simp] theorem setAux_sync (v : BitVec 3) : (setAux v s).sync = s.sync := rfl
@[simp] theorem setAux_frame (v : BitVec 3) : (setAux v s).frame = s.frame := rfl
@[simp] theorem setAux_coll (v : BitVec 3) : (setAux v s).coll = s.coll := rfl
@[simp] theorem setAux_pending (v : BitVec 3) : (setAux v s).pending = s.pending := rfl
@[simp] theorem setAux_response (v : BitVec 3) :
    (setAux v s).response =
      { s.response with aux := v } :=
  rfl
@[simp] theorem setAux_symbolIn (v : BitVec 3) : (setAux v s).symbolIn = s.symbolIn := rfl

/-! ### `errorResponse` -/

@[simp] theorem errorResponse_configured (c : ErrorCode) (v : Word) :
    (errorResponse c v s).configured =
      s.configured :=
  rfl
@[simp] theorem errorResponse_sampleFreq (c : ErrorCode) (v : Word) :
    (errorResponse c v s).sampleFreq =
      s.sampleFreq :=
  rfl
@[simp] theorem errorResponse_demod (c : ErrorCode) (v : Word) :
    (errorResponse c v s).demod =
      s.demod :=
  rfl
@[simp] theorem errorResponse_sync (c : ErrorCode) (v : Word) :
    (errorResponse c v s).sync =
      s.sync :=
  rfl
@[simp] theorem errorResponse_frame (c : ErrorCode) (v : Word) :
    (errorResponse c v s).frame =
      s.frame :=
  rfl
@[simp] theorem errorResponse_coll (c : ErrorCode) (v : Word) :
    (errorResponse c v s).coll =
      s.coll :=
  rfl
@[simp] theorem errorResponse_pending (c : ErrorCode) (v : Word) :
    (errorResponse c v s).pending =
      s.pending :=
  rfl
@[simp] theorem errorResponse_response (c : ErrorCode) (v : Word) :
    (errorResponse c v s).response =
      { status := .err c, value := v, aux := 0#3, events := [] } :=
  rfl
@[simp] theorem errorResponse_symbolIn (c : ErrorCode) (v : Word) :
    (errorResponse c v s).symbolIn =
      s.symbolIn :=
  rfl

/-! ### `resetRegisters` -/

@[simp] theorem resetRegisters_configured : (resetRegisters s).configured = s.configured := rfl
@[simp] theorem resetRegisters_sampleFreq : (resetRegisters s).sampleFreq = s.sampleFreq := rfl
@[simp] theorem resetRegisters_demod : (resetRegisters s).demod = Demod.reset := rfl
@[simp] theorem resetRegisters_sync : (resetRegisters s).sync = Sync.reset := rfl
@[simp] theorem resetRegisters_frame : (resetRegisters s).frame = Frame.reset := rfl
@[simp] theorem resetRegisters_coll : (resetRegisters s).coll = Collector.reset := rfl
@[simp] theorem resetRegisters_pending : (resetRegisters s).pending = s.pending := rfl
@[simp] theorem resetRegisters_response : (resetRegisters s).response = s.response := rfl
@[simp] theorem resetRegisters_symbolIn : (resetRegisters s).symbolIn = SymbolBits.reset := rfl

/-! ### `setFrameState` -/

@[simp] theorem setFrameState_configured (st : FrameState) :
    (setFrameState st s).configured =
      s.configured :=
  rfl
@[simp] theorem setFrameState_sampleFreq (st : FrameState) :
    (setFrameState st s).sampleFreq =
      s.sampleFreq :=
  rfl
@[simp] theorem setFrameState_demod (st : FrameState) : (setFrameState st s).demod = s.demod := rfl
@[simp] theorem setFrameState_sync (st : FrameState) : (setFrameState st s).sync = s.sync := rfl
@[simp] theorem setFrameState_frame (st : FrameState) :
    (setFrameState st s).frame =
      { s.frame with state := st } :=
  rfl
@[simp] theorem setFrameState_coll (st : FrameState) : (setFrameState st s).coll = s.coll := rfl
@[simp] theorem setFrameState_pending (st : FrameState) :
    (setFrameState st s).pending =
      s.pending :=
  rfl
@[simp] theorem setFrameState_response (st : FrameState) :
    (setFrameState st s).response =
      s.response :=
  rfl
@[simp] theorem setFrameState_symbolIn (st : FrameState) :
    (setFrameState st s).symbolIn =
      s.symbolIn :=
  rfl

/-! ### `setBaud` -/

@[simp] theorem setBaud_configured (b : Baud) : (setBaud b s).configured = s.configured := rfl
@[simp] theorem setBaud_sampleFreq (b : Baud) : (setBaud b s).sampleFreq = s.sampleFreq := rfl
@[simp] theorem setBaud_demod (b : Baud) : (setBaud b s).demod = { s.demod with baud := b } := rfl
@[simp] theorem setBaud_sync (b : Baud) : (setBaud b s).sync = s.sync := rfl
@[simp] theorem setBaud_frame (b : Baud) : (setBaud b s).frame = s.frame := rfl
@[simp] theorem setBaud_coll (b : Baud) : (setBaud b s).coll = s.coll := rfl
@[simp] theorem setBaud_pending (b : Baud) : (setBaud b s).pending = s.pending := rfl
@[simp] theorem setBaud_response (b : Baud) : (setBaud b s).response = s.response := rfl
@[simp] theorem setBaud_symbolIn (b : Baud) : (setBaud b s).symbolIn = s.symbolIn := rfl

/-! ### `shiftSyncBuf` -/

@[simp] theorem shiftSyncBuf_configured (bit : Bool) :
    (shiftSyncBuf bit s).configured =
      s.configured :=
  rfl
@[simp] theorem shiftSyncBuf_sampleFreq (bit : Bool) :
    (shiftSyncBuf bit s).sampleFreq =
      s.sampleFreq :=
  rfl
@[simp] theorem shiftSyncBuf_demod (bit : Bool) : (shiftSyncBuf bit s).demod = s.demod := rfl
@[simp] theorem shiftSyncBuf_sync (bit : Bool) :
    (shiftSyncBuf bit s).sync =
      { s.sync with syncBuf := shiftInBottom s.sync.syncBuf bit } :=
  rfl
@[simp] theorem shiftSyncBuf_frame (bit : Bool) : (shiftSyncBuf bit s).frame = s.frame := rfl
@[simp] theorem shiftSyncBuf_coll (bit : Bool) : (shiftSyncBuf bit s).coll = s.coll := rfl
@[simp] theorem shiftSyncBuf_pending (bit : Bool) : (shiftSyncBuf bit s).pending = s.pending := rfl
@[simp] theorem shiftSyncBuf_response (bit : Bool) :
    (shiftSyncBuf bit s).response =
      s.response :=
  rfl
@[simp] theorem shiftSyncBuf_symbolIn (bit : Bool) :
    (shiftSyncBuf bit s).symbolIn =
      s.symbolIn :=
  rfl

/-! ### `recordMode` -/

@[simp] theorem recordMode_configured (c : BitVec 16) (b : Baud) (l : Levels) :
    (recordMode c b l s).configured =
      s.configured :=
  rfl
@[simp] theorem recordMode_sampleFreq (c : BitVec 16) (b : Baud) (l : Levels) :
    (recordMode c b l s).sampleFreq =
      s.sampleFreq :=
  rfl
@[simp] theorem recordMode_demod (c : BitVec 16) (b : Baud) (l : Levels) :
    (recordMode c b l s).demod =
      s.demod :=
  rfl
@[simp] theorem recordMode_sync (c : BitVec 16) (b : Baud) (l : Levels) :
    (recordMode c b l s).sync =
      { s.sync with syncCode := c.setWidth 32, baud := b, levels := l } :=
  rfl
@[simp] theorem recordMode_frame (c : BitVec 16) (b : Baud) (l : Levels) :
    (recordMode c b l s).frame =
      s.frame :=
  rfl
@[simp] theorem recordMode_coll (c : BitVec 16) (b : Baud) (l : Levels) :
    (recordMode c b l s).coll =
      s.coll :=
  rfl
@[simp] theorem recordMode_pending (c : BitVec 16) (b : Baud) (l : Levels) :
    (recordMode c b l s).pending =
      s.pending :=
  rfl
@[simp] theorem recordMode_response (c : BitVec 16) (b : Baud) (l : Levels) :
    (recordMode c b l s).response =
      s.response :=
  rfl
@[simp] theorem recordMode_symbolIn (c : BitVec 16) (b : Baud) (l : Levels) :
    (recordMode c b l s).symbolIn =
      s.symbolIn :=
  rfl

/-! ### `recordPolarity` -/

@[simp] theorem recordPolarity_configured (pol : Polarity) :
    (recordPolarity pol s).configured =
      s.configured :=
  rfl
@[simp] theorem recordPolarity_sampleFreq (pol : Polarity) :
    (recordPolarity pol s).sampleFreq =
      s.sampleFreq :=
  rfl
@[simp] theorem recordPolarity_demod (pol : Polarity) :
    (recordPolarity pol s).demod =
      s.demod :=
  rfl
@[simp] theorem recordPolarity_sync (pol : Polarity) :
    (recordPolarity pol s).sync =
      { s.sync with polarity := pol } :=
  rfl
@[simp] theorem recordPolarity_frame (pol : Polarity) :
    (recordPolarity pol s).frame =
      s.frame :=
  rfl
@[simp] theorem recordPolarity_coll (pol : Polarity) : (recordPolarity pol s).coll = s.coll := rfl
@[simp] theorem recordPolarity_pending (pol : Polarity) :
    (recordPolarity pol s).pending =
      s.pending :=
  rfl
@[simp] theorem recordPolarity_response (pol : Polarity) :
    (recordPolarity pol s).response =
      s.response :=
  rfl
@[simp] theorem recordPolarity_symbolIn (pol : Polarity) :
    (recordPolarity pol s).symbolIn =
      s.symbolIn :=
  rfl

/-! ### `startFiw` -/

@[simp] theorem startFiw_configured : (startFiw s).configured = s.configured := rfl
@[simp] theorem startFiw_sampleFreq : (startFiw s).sampleFreq = s.sampleFreq := rfl
@[simp] theorem startFiw_demod : (startFiw s).demod = s.demod := rfl
@[simp] theorem startFiw_sync : (startFiw s).sync = s.sync := rfl
@[simp] theorem startFiw_frame :
    (startFiw s).frame =
      { s.frame with fiwCount := 0#6, fiwRaw := 0#32, state := .fiw } :=
  rfl
@[simp] theorem startFiw_coll : (startFiw s).coll = s.coll := rfl
@[simp] theorem startFiw_pending : (startFiw s).pending = s.pending := rfl
@[simp] theorem startFiw_response : (startFiw s).response = s.response := rfl
@[simp] theorem startFiw_symbolIn : (startFiw s).symbolIn = s.symbolIn := rfl

/-! ### `setFiwRaw` -/

@[simp] theorem setFiwRaw_configured (w : Word) : (setFiwRaw w s).configured = s.configured := rfl
@[simp] theorem setFiwRaw_sampleFreq (w : Word) : (setFiwRaw w s).sampleFreq = s.sampleFreq := rfl
@[simp] theorem setFiwRaw_demod (w : Word) : (setFiwRaw w s).demod = s.demod := rfl
@[simp] theorem setFiwRaw_sync (w : Word) : (setFiwRaw w s).sync = s.sync := rfl
@[simp] theorem setFiwRaw_frame (w : Word) :
    (setFiwRaw w s).frame =
      { s.frame with fiwRaw := w } :=
  rfl
@[simp] theorem setFiwRaw_coll (w : Word) : (setFiwRaw w s).coll = s.coll := rfl
@[simp] theorem setFiwRaw_pending (w : Word) : (setFiwRaw w s).pending = s.pending := rfl
@[simp] theorem setFiwRaw_response (w : Word) : (setFiwRaw w s).response = s.response := rfl
@[simp] theorem setFiwRaw_symbolIn (w : Word) : (setFiwRaw w s).symbolIn = s.symbolIn := rfl

/-! ### `setToggle` -/

@[simp] theorem setToggle_configured (t : Bool) : (setToggle t s).configured = s.configured := rfl
@[simp] theorem setToggle_sampleFreq (t : Bool) : (setToggle t s).sampleFreq = s.sampleFreq := rfl
@[simp] theorem setToggle_demod (t : Bool) : (setToggle t s).demod = s.demod := rfl
@[simp] theorem setToggle_sync (t : Bool) : (setToggle t s).sync = s.sync := rfl
@[simp] theorem setToggle_frame (t : Bool) : (setToggle t s).frame = s.frame := rfl
@[simp] theorem setToggle_coll (t : Bool) :
    (setToggle t s).coll =
      { s.coll with phaseToggle := t } :=
  rfl
@[simp] theorem setToggle_pending (t : Bool) : (setToggle t s).pending = s.pending := rfl
@[simp] theorem setToggle_response (t : Bool) : (setToggle t s).response = s.response := rfl
@[simp] theorem setToggle_symbolIn (t : Bool) : (setToggle t s).symbolIn = s.symbolIn := rfl

/-! ### `clearCollector` -/

@[simp] theorem clearCollector_configured : (clearCollector s).configured = s.configured := rfl
@[simp] theorem clearCollector_sampleFreq : (clearCollector s).sampleFreq = s.sampleFreq := rfl
@[simp] theorem clearCollector_demod : (clearCollector s).demod = s.demod := rfl
@[simp] theorem clearCollector_sync : (clearCollector s).sync = s.sync := rfl
@[simp] theorem clearCollector_frame : (clearCollector s).frame = s.frame := rfl
@[simp] theorem clearCollector_coll : (clearCollector s).coll = Collector.reset := rfl
@[simp] theorem clearCollector_pending : (clearCollector s).pending = s.pending := rfl
@[simp] theorem clearCollector_response : (clearCollector s).response = s.response := rfl
@[simp] theorem clearCollector_symbolIn : (clearCollector s).symbolIn = s.symbolIn := rfl

/-! ### `startData` -/

@[simp] theorem startData_configured : (startData s).configured = s.configured := rfl
@[simp] theorem startData_sampleFreq : (startData s).sampleFreq = s.sampleFreq := rfl
@[simp] theorem startData_demod : (startData s).demod = s.demod := rfl
@[simp] theorem startData_sync : (startData s).sync = s.sync := rfl
@[simp] theorem startData_frame :
    (startData s).frame =
      { s.frame with dataCount := 0#13, state := .data } :=
  rfl
@[simp] theorem startData_coll : (startData s).coll = Collector.reset := rfl
@[simp] theorem startData_pending : (startData s).pending = s.pending := rfl
@[simp] theorem startData_response : (startData s).response = s.response := rfl
@[simp] theorem startData_symbolIn : (startData s).symbolIn = s.symbolIn := rfl

/-! ### `setNonconsec` -/

@[simp] theorem setNonconsec_configured (n : BitVec 8) :
    (setNonconsec n s).configured =
      s.configured :=
  rfl
@[simp] theorem setNonconsec_sampleFreq (n : BitVec 8) :
    (setNonconsec n s).sampleFreq =
      s.sampleFreq :=
  rfl
@[simp] theorem setNonconsec_demod (n : BitVec 8) :
    (setNonconsec n s).demod =
      { s.demod with nonconsec := n } :=
  rfl
@[simp] theorem setNonconsec_sync (n : BitVec 8) : (setNonconsec n s).sync = s.sync := rfl
@[simp] theorem setNonconsec_frame (n : BitVec 8) : (setNonconsec n s).frame = s.frame := rfl
@[simp] theorem setNonconsec_coll (n : BitVec 8) : (setNonconsec n s).coll = s.coll := rfl
@[simp] theorem setNonconsec_pending (n : BitVec 8) : (setNonconsec n s).pending = s.pending := rfl
@[simp] theorem setNonconsec_response (n : BitVec 8) :
    (setNonconsec n s).response =
      s.response :=
  rfl
@[simp] theorem setNonconsec_symbolIn (n : BitVec 8) :
    (setNonconsec n s).symbolIn =
      s.symbolIn :=
  rfl

/-! ### `dropLock` -/

@[simp] theorem dropLock_configured (c : LockLossCause) :
    (dropLock c s).configured =
      s.configured :=
  rfl
@[simp] theorem dropLock_sampleFreq (c : LockLossCause) :
    (dropLock c s).sampleFreq =
      s.sampleFreq :=
  rfl
@[simp] theorem dropLock_demod (c : LockLossCause) :
    (dropLock c s).demod =
      { s.demod with locked := false } :=
  rfl
@[simp] theorem dropLock_sync (c : LockLossCause) : (dropLock c s).sync = s.sync := rfl
@[simp] theorem dropLock_frame (c : LockLossCause) : (dropLock c s).frame = s.frame := rfl
@[simp] theorem dropLock_coll (c : LockLossCause) : (dropLock c s).coll = s.coll := rfl
@[simp] theorem dropLock_pending (c : LockLossCause) : (dropLock c s).pending = s.pending := rfl
@[simp] theorem dropLock_response (c : LockLossCause) :
    (dropLock c s).response =
      { s.response with events := s.response.events ++ [.lockLost c] } :=
  rfl
@[simp] theorem dropLock_symbolIn (c : LockLossCause) : (dropLock c s).symbolIn = s.symbolIn := rfl

/-! ### `unlockedReset` -/

@[simp] theorem unlockedReset_configured : (unlockedReset s).configured = s.configured := rfl
@[simp] theorem unlockedReset_sampleFreq : (unlockedReset s).sampleFreq = s.sampleFreq := rfl
@[simp] theorem unlockedReset_demod :
    (unlockedReset s).demod =
      { s.demod with
        envelope := 0
        envelopeSum := 0
        envelopeCount := 0
        baud := .b1600
        timeout := 0#8
        nonconsec := 0#8 } :=
  rfl
@[simp] theorem unlockedReset_sync : (unlockedReset s).sync = s.sync := rfl
@[simp] theorem unlockedReset_frame :
    (unlockedReset s).frame =
      { s.frame with state := .sync1 } :=
  rfl
@[simp] theorem unlockedReset_coll : (unlockedReset s).coll = s.coll := rfl
@[simp] theorem unlockedReset_pending : (unlockedReset s).pending = s.pending := rfl
@[simp] theorem unlockedReset_response : (unlockedReset s).response = s.response := rfl
@[simp] theorem unlockedReset_symbolIn : (unlockedReset s).symbolIn = s.symbolIn := rfl

/-! ### `advancePhase` -/

@[simp] theorem advancePhase_configured (t : SampleTiming) :
    (advancePhase t s).configured =
      s.configured :=
  rfl
@[simp] theorem advancePhase_sampleFreq (t : SampleTiming) :
    (advancePhase t s).sampleFreq =
      s.sampleFreq :=
  rfl
@[simp] theorem advancePhase_demod (t : SampleTiming) :
    (advancePhase t s).demod =
      { s.demod with
        phase :=
          if t.phaseMax < s.demod.phase + t.phaseRate then s.demod.phase + t.phaseRate - t.phaseMax
          else s.demod.phase + t.phaseRate } :=
  rfl
@[simp] theorem advancePhase_sync (t : SampleTiming) : (advancePhase t s).sync = s.sync := rfl
@[simp] theorem advancePhase_frame (t : SampleTiming) : (advancePhase t s).frame = s.frame := rfl
@[simp] theorem advancePhase_coll (t : SampleTiming) : (advancePhase t s).coll = s.coll := rfl
@[simp] theorem advancePhase_pending (t : SampleTiming) :
    (advancePhase t s).pending =
      s.pending :=
  rfl
@[simp] theorem advancePhase_response (t : SampleTiming) :
    (advancePhase t s).response =
      s.response :=
  rfl
@[simp] theorem advancePhase_symbolIn (t : SampleTiming) :
    (advancePhase t s).symbolIn =
      s.symbolIn :=
  rfl

end Sys2Proof.Machine
end

