-- ==== Sys2Proof/Laws/Memory.lean ====
section
/-! SUPPORT. The laws of the phase-buffer memory: a read after a write, and the canonical form that
every write keeps. -/

namespace Sys2Proof.Machine

/-! ### Numbered files -/

@[simp] theorem fourGet_fourSet_same {α : Type} (f : Four α) (i : BitVec 2) (v : α) :
    fourGet (fourSet f i v) i = v := by
  unfold fourGet fourSet
  split <;> rename_i h0
  · simp
  · split <;> rename_i h1
    · simp
    · split <;> simp

theorem fourGet_fourSet_other {α : Type} (f : Four α) {i j : BitVec 2} (v : α) (h : j ≠ i) :
    fourGet (fourSet f i v) j = fourGet f j := by
  have cover : ∀ x : BitVec 2, x = 0#2 ∨ x = 1#2 ∨ x = 2#2 ∨ x = 3#2 := by decide
  rcases cover i with rfl | rfl | rfl | rfl <;> rcases cover j with rfl | rfl | rfl | rfl <;>
    first | rfl | exact absurd rfl h

/-! ### Addresses -/

theorem pbAddress_eq (p : Phase) (i : BitVec 7) :
    pbAddress p i = (phaseBits p).toNat * 128 + i.toNat := by
  have h := i.isLt
  unfold pbAddress
  rw [BitVec.toNat_append, ← Nat.shiftLeft_add_eq_or_of_lt h, Nat.shiftLeft_eq]

/-- Different words have different addresses. -/
theorem pbAddress_inj {p q : Phase} {i j : BitVec 7} (h : pbAddress p i = pbAddress q j) :
    p = q ∧ i = j := by
  have hi := i.isLt
  have hj := j.isLt
  rw [pbAddress_eq, pbAddress_eq] at h
  have hpq : (phaseBits p).toNat = (phaseBits q).toNat := by omega
  refine ⟨?_, BitVec.eq_of_toNat_eq (by omega)⟩
  cases p <;> cases q <;> first | rfl | simp [phaseBits] at hpq

/-- A word whose index exists has an address that exists. -/
theorem addressExists_pbAddress {p : Phase} {i : BitVec 7} (h : pbIndexExists i = true) :
    addressExists (pbAddress p i) = true := by
  have hi : i.toNat < 88 := of_decide_eq_true h
  have hp : (phaseBits p).toNat < 4 := (phaseBits p).isLt
  have h88 : Config.phaseWords = 88 := rfl
  rw [pbAddress_eq]
  simp only [addressExists, Bool.and_eq_true, decide_eq_true_eq, h88]
  omega

/-! ### The canonical form -/

theorem memory_wf_cons (c : Nat × Word) (m : Memory) :
    Memory.wf (c :: m) = true ↔
      addressExists c.1 = true ∧ c.2 ≠ unlistedWord ∧ (∀ e ∈ m, c.1 < e.1) ∧
        Memory.wf m = true := by
  simp [Memory.wf, and_assoc]

theorem memCons_wf {a : Nat} {v : Word} {m : Memory} (ha : addressExists a = true)
    (hlt : ∀ e ∈ m, a < e.1) (hm : Memory.wf m = true) : Memory.wf (memCons a v m) = true := by
  unfold memCons
  split
  · exact hm
  · exact (memory_wf_cons _ _).2 ⟨ha, by assumption, hlt, hm⟩

theorem mem_memWrite {m : Memory} {a : Nat} {v : Word} {e : Nat × Word}
    (h : e ∈ memWrite m a v) : e.1 = a ∨ e ∈ m := by
  induction m with
  | nil =>
    simp only [memWrite, memCons] at h
    split at h <;> simp_all
  | cons c rest ih =>
    simp only [memWrite, memCons] at h
    split at h
    · split at h
      · exact Or.inr h
      · rcases List.mem_cons.1 h with rfl | h'
        · exact Or.inl rfl
        · exact Or.inr h'
    · split at h
      · split at h
        · exact Or.inr (List.mem_cons_of_mem _ h)
        · rcases List.mem_cons.1 h with rfl | h'
          · exact Or.inl rfl
          · exact Or.inr (List.mem_cons_of_mem _ h')
      · rcases List.mem_cons.1 h with rfl | h'
        · exact Or.inr (List.mem_cons_self ..)
        · exact (ih h').imp id (List.mem_cons_of_mem _)

/-- Every write to an address that exists keeps the canonical form. -/
theorem memWrite_wf {m : Memory} {a : Nat} {v : Word} (ha : addressExists a = true)
    (hm : Memory.wf m = true) : Memory.wf (memWrite m a v) = true := by
  induction m with
  | nil => exact memCons_wf ha (by simp) rfl
  | cons c rest ih =>
    obtain ⟨hc, hv, hlt, hrest⟩ := (memory_wf_cons c rest).1 hm
    simp only [memWrite]
    split
    · rename_i hac
      refine memCons_wf ha ?_ hm
      intro e he
      rcases List.mem_cons.1 he with rfl | he
      · exact hac
      · exact lt_trans hac (hlt e he)
    · split
      · rename_i _ hac
        exact memCons_wf ha (fun e he => hac ▸ hlt e he) hrest
      · rename_i h1 h2
        refine (memory_wf_cons _ _).2 ⟨hc, hv, ?_, ih hrest⟩
        intro e he
        rcases mem_memWrite he with h | h
        · omega
        · exact hlt e h

theorem pbWrite_wf {p : Phase} {i : BitVec 7} {v : Word} {s : State}
    (hi : pbIndexExists i = true) (hm : Memory.wf s.coll.pb = true) :
    Memory.wf (pbWrite p i v s).coll.pb = true :=
  memWrite_wf (addressExists_pbAddress hi) hm

/-- The memory after a reset and after the collector's clear has the canonical form. -/
theorem reset_memory_wf : Memory.wf Collector.reset.pb = true := rfl

/-! ### A read after a write -/

theorem memRead_of_lt {m : Memory} {a : Nat} (h : ∀ e ∈ m, a < e.1) :
    memRead m a = unlistedWord := by
  induction m with
  | nil => rfl
  | cons c rest ih =>
    have hc := h c (List.mem_cons_self ..)
    simp only [memRead]
    rw [if_neg (by omega)]
    exact ih (fun e he => h e (List.mem_cons_of_mem _ he))

theorem memRead_memCons_same {a : Nat} {v : Word} {m : Memory} (h : ∀ e ∈ m, a < e.1) :
    memRead (memCons a v m) a = v := by
  unfold memCons
  split
  · rename_i hv
    rw [memRead_of_lt h, hv]
  · simp [memRead]

theorem memRead_memCons_other {a b : Nat} {v : Word} {m : Memory} (h : b ≠ a) :
    memRead (memCons a v m) b = memRead m b := by
  unfold memCons
  split
  · rfl
  · simp [memRead, h]

/-- A read after a write to the same address gives the word written. -/
theorem memRead_memWrite_same {m : Memory} {a : Nat} {v : Word} (hm : Memory.wf m = true) :
    memRead (memWrite m a v) a = v := by
  induction m with
  | nil => exact memRead_memCons_same (by simp)
  | cons c rest ih =>
    obtain ⟨_, _, hlt, hrest⟩ := (memory_wf_cons c rest).1 hm
    simp only [memWrite]
    split
    · rename_i hac
      refine memRead_memCons_same ?_
      intro e he
      rcases List.mem_cons.1 he with rfl | he
      · exact hac
      · exact lt_trans hac (hlt e he)
    · split
      · rename_i _ hac
        exact memRead_memCons_same (fun e he => hac ▸ hlt e he)
      · rename_i _ h2
        simp only [memRead, if_neg h2]
        exact ih hrest

/-- A write leaves every other address alone. -/
theorem memRead_memWrite_other {m : Memory} {a b : Nat} {v : Word} (h : b ≠ a) :
    memRead (memWrite m a v) b = memRead m b := by
  induction m with
  | nil => exact memRead_memCons_other h
  | cons c rest ih =>
    simp only [memWrite]
    split
    · exact memRead_memCons_other h
    · split
      · rename_i _ hac
        rw [memRead_memCons_other h]
        simp only [memRead]
        rw [if_neg (hac ▸ h)]
      · simp only [memRead]
        split
        · rfl
        · exact ih

theorem pbRead_pbWrite_same {p : Phase} {i : BitVec 7} {v : Word} {s : State}
    (hm : Memory.wf s.coll.pb = true) : pbRead p i (pbWrite p i v s) = v :=
  memRead_memWrite_same hm

theorem pbRead_pbWrite_other {p q : Phase} {i j : BitVec 7} {v : Word} {s : State}
    (h : ¬(q = p ∧ j = i)) : pbRead q j (pbWrite p i v s) = pbRead q j s :=
  memRead_memWrite_other (fun e => h (pbAddress_inj e))

/-- The empty memory reads as 0 everywhere. -/
@[simp] theorem pbRead_clearCollector (p : Phase) (i : BitVec 7) (s : State) :
    pbRead p i (clearCollector s) = 0#32 := rfl

end Sys2Proof.Machine
end

