-- ==== Sys2Proof/Laws/Handlers.lean ====
section
/-! SUPPORT. What each shared operation of the machine can do, said once: the handlers of the frame
state machine, the collector step, the lock detector, the symbol-complete sequence and the sample
step. Proofs cite these and do not unfold the operations. -/

namespace Sys2Proof.Machine

/-! ### The outcomes -/

theorem complete_eq_next {r : Except Fault State} {f : State → State} {t : State} :
    complete r f = .next t ↔ ∃ s', r = .ok s' ∧ t = f s' := by
  cases r with
  | ok s' =>
    simp only [complete, Host.Outcome.next.injEq, Except.ok.injEq, exists_eq_left']
    exact eq_comm
  | error e => simp [complete]

@[simp] theorem complete_ok (s : State) (f : State → State) :
    complete (.ok s) f = .next (f s) := rfl

/-! ### The synchronizer -/

/-- The match is at one polarity, on the buffer or on its complement. -/
theorem matchSync_cases (b : BitVec 64) :
    (matchSync b = some (.normal, b) ∧ acceptsSync b = true) ∨
      (matchSync b = some (.inverted, ~~~b) ∧ acceptsSync b = false ∧
        acceptsSync (~~~b) = true) ∨
      (matchSync b = none ∧ acceptsSync b = false ∧ acceptsSync (~~~b) = false) := by
  unfold matchSync
  cases h1 : acceptsSync b
  · cases h2 : acceptsSync (~~~b) <;> simp
  · simp

/-! ### The handlers -/

/-- SYNC1: a match starts a FIW with the mode recorded, anything else only shifts. -/
theorem handleSync1_cases (d : SymbolBits) (s : State) :
    (∃ pol b, matchSync (shiftInBottom s.sync.syncBuf d.syncBit) = some (pol, b) ∧
        handleSync1 d s =
          startFiw (emit (syncFoundEvent b (recordMatch pol b (shiftSyncBuf d.syncBit s)))
            (recordMatch pol b (shiftSyncBuf d.syncBit s)))) ∨
      (matchSync (shiftInBottom s.sync.syncBuf d.syncBit) = none ∧
        handleSync1 d s = shiftSyncBuf d.syncBit s) := by
  unfold handleSync1
  simp only [shiftSyncBuf_sync]
  cases h : matchSync (shiftInBottom s.sync.syncBuf d.syncBit) with
  | none => exact Or.inr ⟨rfl, rfl⟩
  | some r => exact Or.inl ⟨r.1, r.2, rfl, rfl⟩

/-- FIW before its 48th symbol only counts and shifts. -/
theorem handleFiw_below {d : SymbolBits} {s : State}
    (h : (shiftFiw d s).frame.fiwCount.toNat ≠ 48) : handleFiw d s = shiftFiw d s := by
  unfold handleFiw
  exact if_neg h

/-- FIW at its 48th symbol is checked. -/
theorem handleFiw_full {d : SymbolBits} {s : State}
    (h : (shiftFiw d s).frame.fiwCount.toNat = 48) : handleFiw d s = checkFiw (shiftFiw d s) := by
  unfold handleFiw
  exact if_pos h

/-- The check rejects an uncorrectable word, rejects a wrong checksum, or accepts. -/
theorem checkFiw_cases (s : State) :
    (fixErrors s.frame.fiwRaw = none ∧
        checkFiw s = rejectFiw .uncorrectable s.frame.fiwRaw s) ∨
      (∃ w n, fixErrors s.frame.fiwRaw = some (w, n) ∧ fiwChecksumPasses w = false ∧
        checkFiw s = rejectFiw .checksum w (setFiwRaw w s)) ∨
      (∃ w n, fixErrors s.frame.fiwRaw = some (w, n) ∧ fiwChecksumPasses w = true ∧
        checkFiw s = acceptFiw w n (setFiwRaw w s)) := by
  unfold checkFiw
  cases h : fixErrors s.frame.fiwRaw with
  | none => exact Or.inl ⟨rfl, rfl⟩
  | some r =>
    cases hc : fiwChecksumPasses r.1 with
    | false => exact Or.inr (Or.inl ⟨r.1, r.2, rfl, hc, by simp [hc]⟩)
    | true => exact Or.inr (Or.inr ⟨r.1, r.2, rfl, hc, by simp [hc]⟩)

/-- The count of one SYNC2 symbol. -/
def countSync2 (s : State) : State :=
  { s with frame := { s.frame with sync2Count := s.frame.sync2Count + 1#7 } }

/-- SYNC2 counts, and starts the data at its bound. -/
theorem handleSync2_eq (s : State) :
    handleSync2 s =
      if (s.frame.sync2Count + 1#7).toNat = sync2Symbols s.sync.baud then startData (countSync2 s)
      else countSync2 s := rfl

/-- A collector step answers its sub-steps, or faults on a word that does not exist. -/
theorem collect_eq_ok {d : SymbolBits} {s t : State} :
    collect d s = .ok t ↔
      pbIndexExists (deinterleaveIndex s.coll.dataBitCounter) = true ∧ t = collectSteps d s := by
  unfold collect
  constructor
  · intro h
    split at h
    · rename_i hi
      exact ⟨hi, (Except.ok.inj h).symm⟩
    · exact absurd h (by simp)
  · rintro ⟨hi, rfl⟩
    exact if_pos hi

/-- The count of one DATA symbol. -/
def countDataSymbol (s : State) : State :=
  { s with frame := { s.frame with dataCount := s.frame.dataCount + 1#13 } }

/-- After the collector, DATA counts, and ends the frame when it is full or idle. -/
theorem countData_cases (s : State) :
    (countData s = countDataSymbol s ∧
        (countDataSymbol s).frame.dataCount.toNat ≠ dataSymbols s.sync.baud ∧
        allActiveIdle (countDataSymbol s) = false) ∨
      (countData s =
          endFrame (allActiveIdle (countDataSymbol s))
            (decide ((countDataSymbol s).frame.dataCount.toNat = dataSymbols s.sync.baud))
            (countDataSymbol s) ∧
        ((countDataSymbol s).frame.dataCount.toNat = dataSymbols s.sync.baud ∨
          allActiveIdle (countDataSymbol s) = true)) := by
  have e : countData s =
      if (decide ((countDataSymbol s).frame.dataCount.toNat = dataSymbols s.sync.baud) ||
          allActiveIdle (countDataSymbol s)) = true then
        endFrame (allActiveIdle (countDataSymbol s))
          (decide ((countDataSymbol s).frame.dataCount.toNat = dataSymbols s.sync.baud))
          (countDataSymbol s)
      else countDataSymbol s := rfl
  rw [e]
  split
  · rename_i h
    exact Or.inr ⟨rfl, by simpa using h⟩
  · rename_i h
    have h' : (countDataSymbol s).frame.dataCount.toNat ≠ dataSymbols s.sync.baud ∧
        allActiveIdle (countDataSymbol s) = false := by simpa using h
    exact Or.inl ⟨rfl, h'.1, h'.2⟩

/-- DATA collects its symbol and then counts it. -/
theorem handleData_eq_ok {d : SymbolBits} {s t : State} :
    handleData d s = .ok t ↔
      pbIndexExists (deinterleaveIndex s.coll.dataBitCounter) = true ∧
        t = countData (collectSteps d s) := by
  unfold handleData
  constructor
  · intro h
    split at h
    · rename_i s' hs
      obtain ⟨hi, rfl⟩ := collect_eq_ok.1 hs
      exact ⟨hi, (Except.ok.inj h).symm⟩
    · exact absurd h (by simp)
  · rintro ⟨hi, rfl⟩
    rw [collect_eq_ok.2 ⟨hi, rfl⟩]

/-- The symbol handler runs the handler of the state on entry. -/
theorem symbolHandler_cases {q : Symbol} {s t : State} (h : symbolHandler q s = .ok t) :
    (s.frame.state = .sync1 ∧ t = handleSync1 (decodeSymbol s.sync.polarity q) s) ∨
      (s.frame.state = .fiw ∧ t = handleFiw (decodeSymbol s.sync.polarity q) s) ∨
      (s.frame.state = .sync2 ∧ t = handleSync2 s) ∨
      (s.frame.state = .data ∧
        pbIndexExists (deinterleaveIndex s.coll.dataBitCounter) = true ∧
        t = countData (collectSteps (decodeSymbol s.sync.polarity q) s)) := by
  unfold symbolHandler handlerOf at h
  cases hs : s.frame.state <;> simp only [hs] at h
  · exact Or.inl ⟨rfl, by simpa using h.symm⟩
  · exact Or.inr (Or.inl ⟨rfl, by simpa using h.symm⟩)
  · exact Or.inr (Or.inr (Or.inl ⟨rfl, by simpa using h.symm⟩))
  · exact Or.inr (Or.inr (Or.inr ⟨rfl, handleData_eq_ok.1 h⟩))

/-- The symbol handler answers a state unless it is in DATA at a word that does not exist. -/
theorem symbolHandler_answers (q : Symbol) {s : State}
    (h : s.frame.state = .data →
      pbIndexExists (deinterleaveIndex s.coll.dataBitCounter) = true) :
    ∃ t, symbolHandler q s = .ok t := by
  unfold symbolHandler handlerOf
  cases hs : s.frame.state
  · exact ⟨_, rfl⟩
  · exact ⟨_, rfl⟩
  · exact ⟨_, rfl⟩
  · exact ⟨_, handleData_eq_ok.2 ⟨h hs, rfl⟩⟩

/-! ### The demodulator -/

/-- The shift of the lock detector. -/
def shiftLockBuffer (s : State) : State :=
  { s with
    demod :=
      { s.demod with
        lockBuffer := shiftInPair s.demod.lockBuffer (symbolLockPair s.demod.modalSymbol) } }

/-- The lock detector shifts, and acquires lock on the pattern. -/
theorem detectLock_eq (s : State) :
    detectLock s =
      if isLockPattern (shiftLockBuffer s).demod.lockBuffer = true then
        acquireLock (shiftLockBuffer s)
      else shiftLockBuffer s := rfl

/-- A decided symbol goes to the state machine while locked, else to the lock detector. -/
theorem routeSymbol_cases {s t : State} (h : routeSymbol s = .ok t) :
    (s.demod.locked = true ∧ symbolHandler s.demod.modalSymbol s = .ok t) ∨
      (s.demod.locked = false ∧ t = detectLock s) := by
  unfold routeSymbol at h
  split at h
  · rename_i hl
    exact Or.inl ⟨hl, h⟩
  · rename_i hl
    exact Or.inr ⟨by simpa using hl, by simpa using h.symm⟩

/-- The count of one symbol period. -/
def incrementTimeout (s : State) : State :=
  { s with demod := { s.demod with timeout := s.demod.timeout + 1#8 } }

/-- The timeout counts, and drops a held lock above 100. -/
theorem countTimeout_cases (s : State) :
    (countTimeout s = incrementTimeout s ∧
        ((s.demod.timeout + 1#8).toNat ≤ 100 ∨ s.demod.locked = false)) ∨
      (countTimeout s = dropLock .timeout (incrementTimeout s) ∧
        100 < (s.demod.timeout + 1#8).toNat ∧ s.demod.locked = true) := by
  have e : countTimeout s =
      if 100 < (s.demod.timeout + 1#8).toNat then
        (if s.demod.locked = true then dropLock .timeout (incrementTimeout s)
          else incrementTimeout s)
      else incrementTimeout s := rfl
  rw [e]
  split
  · rename_i h
    split
    · rename_i hl
      exact Or.inr ⟨rfl, h, hl⟩
    · rename_i hl
      exact Or.inl ⟨rfl, Or.inr (by simpa using hl)⟩
  · rename_i h
    exact Or.inl ⟨rfl, Or.inl (by omega)⟩

/-- The symbol-complete sequence decides, estimates, routes and counts. -/
theorem completeSymbol_eq_ok {rnd : Analog → Analog} {s t : State} :
    completeSymbol rnd s = .ok t ↔
      ∃ s', routeSymbol (estimateRate rnd (decideSymbol s)) = .ok s' ∧ t = countTimeout s' := by
  unfold completeSymbol
  cases routeSymbol (estimateRate rnd (decideSymbol s)) with
  | ok s' => simp [eq_comm]
  | error e => simp

/-- One sample: its steps, and the symbol-complete sequence when the period completes. -/
theorem demodulate_cases {rnd : Analog → Analog} {v : Analog} {s t : State} {c : Bool}
    (h : demodulate rnd v s = .ok (t, c)) :
    (c = false ∧ periodCompletes (sampleTiming s) (sampleSteps rnd (sampleTiming s) v s) = false ∧
        t = advancePhase (sampleTiming s) (sampleSteps rnd (sampleTiming s) v s)) ∨
      (c = true ∧ periodCompletes (sampleTiming s) (sampleSteps rnd (sampleTiming s) v s) = true ∧
        completeSymbol rnd
          (advancePhase (sampleTiming s) (sampleSteps rnd (sampleTiming s) v s)) = .ok t) := by
  unfold demodulate at h
  simp only at h
  cases hp : periodCompletes (sampleTiming s) (sampleSteps rnd (sampleTiming s) v s) with
  | false =>
    rw [hp] at h
    simp only [Bool.false_eq_true, if_false, Except.ok.injEq, Prod.mk.injEq] at h
    exact Or.inl ⟨h.2.symm, rfl, h.1.symm⟩
  | true =>
    rw [hp] at h
    simp only [if_true] at h
    split at h
    · rename_i s' hs
      simp only [Except.ok.injEq, Prod.mk.injEq] at h
      exact Or.inr ⟨h.2.symm, rfl, h.1 ▸ hs⟩
    · simp at h

end Sys2Proof.Machine
end

