-- ==== Sys2Proof/Laws/Collector.lean ====
section
/-! SUPPORT. What the collector's sub-steps and one whole collector step do to each register of
the collector, and what they leave alone. -/

namespace Sys2Proof.Machine

/-- Every 12-bit counter value is one of 16 blocks of 256. -/
theorem counter_split (c : BitVec 12) :
    ∃ (h : Fin 16) (l : Fin 256), c = BitVec.ofNat 12 (256 * h.val + l.val) := by
  have hc := c.isLt
  refine ⟨⟨c.toNat / 256, by omega⟩, ⟨c.toNat % 256, by omega⟩, BitVec.eq_of_toNat_eq ?_⟩
  simp only [BitVec.toNat_ofNat]
  omega

theorem deinterleaveIndex_blocks :
    ∀ (h : Fin 16) (l : Fin 256),
      (deinterleaveIndex (BitVec.ofNat 12 (256 * h.val + l.val))).toNat =
        8 * h.val + l.val % 8 := by
  decide +kernel

/-- The index is eight times the block plus the word of the block. -/
theorem deinterleaveIndex_toNat (c : BitVec 12) :
    (deinterleaveIndex c).toNat = 8 * (c.toNat / 256) + c.toNat % 8 := by
  obtain ⟨h, l, rfl⟩ := counter_split c
  have hh := h.isLt
  have hl := l.isLt
  rw [deinterleaveIndex_blocks, BitVec.toNat_ofNat]
  omega

/-- The index exists for the 2816 counter values of a frame. -/
theorem deinterleaveIndex_exists {c : BitVec 12} (h : c.toNat < 2816) :
    pbIndexExists (deinterleaveIndex c) = true := by
  have e := deinterleaveIndex_toNat c
  have h88 : Config.phaseWords = 88 := rfl
  exact decide_eq_true (by omega)

theorem isIdleCheckPoint_blocks :
    ∀ (h : Fin 16) (l : Fin 256),
      isIdleCheckPoint (BitVec.ofNat 12 (256 * h.val + l.val)) = decide (l.val = 255) := by
  decide +kernel

/-- The idle-check points are the last counter values of the blocks. -/
theorem isIdleCheckPoint_iff (c : BitVec 12) :
    isIdleCheckPoint c = true ↔ c.toNat % 256 = 255 := by
  obtain ⟨h, l, rfl⟩ := counter_split c
  have hh := h.isLt
  have hl := l.isLt
  rw [isIdleCheckPoint_blocks, decide_eq_true_iff, BitVec.toNat_ofNat]
  omega

/-! ### The sub-steps -/

/-- The states agree in every field but the collector's. -/
structure SameButColl (s t : State) : Prop where
  configured : t.configured = s.configured
  sampleFreq : t.sampleFreq = s.sampleFreq
  demod : t.demod = s.demod
  sync : t.sync = s.sync
  frame : t.frame = s.frame
  pending : t.pending = s.pending
  response : t.response = s.response
  symbolIn : t.symbolIn = s.symbolIn

theorem sameButColl_refl (s : State) : SameButColl s s :=
  ⟨rfl, rfl, rfl, rfl, rfl, rfl, rfl, rfl⟩

theorem sameButColl_trans {s t u : State} (h : SameButColl s t) (k : SameButColl t u) :
    SameButColl s u :=
  ⟨k.1.trans h.1, k.2.trans h.2, k.3.trans h.3, k.4.trans h.4, k.5.trans h.5, k.6.trans h.6,
    k.7.trans h.7, k.8.trans h.8⟩

/-- The pin writes the toggle only, and at 1600 baud only. -/
theorem pinToggle_effect (s : State) :
    SameButColl s (pinToggle s) ∧ (pinToggle s).coll.pb = s.coll.pb ∧
      (pinToggle s).coll.idleCount = s.coll.idleCount ∧
      (pinToggle s).coll.dataBitCounter = s.coll.dataBitCounter ∧
      (s.sync.baud = .b1600 → (pinToggle s).coll.phaseToggle = false) ∧
      (s.sync.baud = .b3200 → (pinToggle s).coll.phaseToggle = s.coll.phaseToggle) := by
  unfold pinToggle
  cases s.sync.baud
  · exact ⟨⟨rfl, rfl, rfl, rfl, rfl, rfl, rfl, rfl⟩, rfl, rfl, rfl, fun _ => rfl,
      fun h => absurd h (by decide)⟩
  · exact ⟨sameButColl_refl s, rfl, rfl, rfl, fun h => absurd h (by decide), fun _ => rfl⟩

/-- The write changes the memory only. -/
theorem writeBits_effect (d : SymbolBits) (s : State) :
    SameButColl s (writeBits d s) ∧ (writeBits d s).coll.idleCount = s.coll.idleCount ∧
      (writeBits d s).coll.phaseToggle = s.coll.phaseToggle ∧
      (writeBits d s).coll.dataBitCounter = s.coll.dataBitCounter := by
  unfold writeBits shiftIntoWord
  simp only
  split <;> exact ⟨⟨rfl, rfl, rfl, rfl, rfl, rfl, rfl, rfl⟩, rfl, rfl, rfl⟩

theorem writeBits_wf (d : SymbolBits) {s : State}
    (hi : pbIndexExists (deinterleaveIndex s.coll.dataBitCounter) = true)
    (hm : Memory.wf s.coll.pb = true) : Memory.wf (writeBits d s).coll.pb = true := by
  unfold writeBits shiftIntoWord
  simp only
  split <;> first | exact pbWrite_wf hi hm | exact pbWrite_wf hi (pbWrite_wf hi hm)

/-- The check of one word changes the idle counters only. -/
theorem countIdleWord_effect (i : BitVec 7) (s : State) (p : Phase) :
    SameButColl s (countIdleWord i s p) ∧ (countIdleWord i s p).coll.pb = s.coll.pb ∧
      (countIdleWord i s p).coll.phaseToggle = s.coll.phaseToggle ∧
      (countIdleWord i s p).coll.dataBitCounter = s.coll.dataBitCounter := by
  unfold countIdleWord
  split
  · exact ⟨⟨rfl, rfl, rfl, rfl, rfl, rfl, rfl, rfl⟩, rfl, rfl, rfl⟩
  · exact ⟨sameButColl_refl s, rfl, rfl, rfl⟩

theorem countIdleWords_effect (i : BitVec 7) (l : List Phase) (s : State) :
    SameButColl s (l.foldl (countIdleWord i) s) ∧
      (l.foldl (countIdleWord i) s).coll.pb = s.coll.pb ∧
      (l.foldl (countIdleWord i) s).coll.phaseToggle = s.coll.phaseToggle ∧
      (l.foldl (countIdleWord i) s).coll.dataBitCounter = s.coll.dataBitCounter := by
  induction l generalizing s with
  | nil => exact ⟨sameButColl_refl s, rfl, rfl, rfl⟩
  | cons p rest ih =>
    obtain ⟨h1, h2, h3, h4⟩ := countIdleWord_effect i s p
    obtain ⟨k1, k2, k3, k4⟩ := ih (countIdleWord i s p)
    exact ⟨sameButColl_trans h1 k1, k2.trans h2, k3.trans h3, k4.trans h4⟩

/-- The idle check changes the idle counters only. -/
theorem checkIdle_effect (s : State) :
    SameButColl s (checkIdle s) ∧ (checkIdle s).coll.pb = s.coll.pb ∧
      (checkIdle s).coll.phaseToggle = s.coll.phaseToggle ∧
      (checkIdle s).coll.dataBitCounter = s.coll.dataBitCounter := by
  unfold checkIdle
  split
  · exact countIdleWords_effect _ _ s
  · exact ⟨sameButColl_refl s, rfl, rfl, rfl⟩

theorem phaseBits_inj {p q : Phase} (h : phaseBits p = phaseBits q) : p = q := by
  cases p <;> cases q <;> first | rfl | exact absurd h (by decide)

/-- The check of one word raises that phase's counter by at most one. -/
theorem countIdleWord_count (i : BitVec 7) (s : State) (p q : Phase) :
    (fourGet (countIdleWord i s p).coll.idleCount (phaseBits q)).toNat ≤
      (fourGet s.coll.idleCount (phaseBits q)).toNat + (if q = p then 1 else 0) := by
  unfold countIdleWord
  split
  · by_cases h : q = p
    · subst h
      simp only [fourGet_fourSet_same, if_true, BitVec.toNat_add]
      exact Nat.mod_le _ _
    · simp only [fourGet_fourSet_other s.coll.idleCount _ (fun e => h (phaseBits_inj e))]
      exact Nat.le_add_right _ _
  · exact Nat.le_add_right _ _

/-- The check of a list of words raises the counter of a phase on it by at most one. -/
theorem countIdleWords_count (i : BitVec 7) (l : List Phase) (s : State) (q : Phase)
    (hl : l.Nodup) :
    (fourGet (l.foldl (countIdleWord i) s).coll.idleCount (phaseBits q)).toNat ≤
      (fourGet s.coll.idleCount (phaseBits q)).toNat + (if q ∈ l then 1 else 0) := by
  induction l generalizing s with
  | nil => simp
  | cons p rest ih =>
    obtain ⟨hp, hrest⟩ := List.nodup_cons.1 hl
    have h1 := countIdleWord_count i s p q
    have h2 := ih (countIdleWord i s p) hrest
    simp only [List.foldl_cons]
    by_cases h : q = p
    · subst h
      simp only [hp, if_false, if_true, List.mem_cons_self] at h1 h2 ⊢
      omega
    · simp only [h, if_false, List.mem_cons, false_or] at h1 h2 ⊢
      omega

theorem writtenPhases_nodup (t : Bool) (l : Levels) : (writtenPhases t l).Nodup := by
  cases t <;> cases l <;> decide

/-! ### One whole collector step -/

/-- What one collector step does to the registers outside the memory and the idle counters
(`44_collector.md` R221, R223, R224, R226). -/
theorem collectSteps_effect (d : SymbolBits) (s : State) :
    SameButColl s (collectSteps d s) ∧
      (s.sync.baud = .b1600 → (collectSteps d s).coll.phaseToggle = false ∧
        (collectSteps d s).coll.dataBitCounter = s.coll.dataBitCounter + 1#12) ∧
      (s.sync.baud = .b3200 → (collectSteps d s).coll.phaseToggle = !s.coll.phaseToggle ∧
        (collectSteps d s).coll.dataBitCounter =
          if s.coll.phaseToggle = true then s.coll.dataBitCounter + 1#12
          else s.coll.dataBitCounter) ∧
      (collectSteps d s).coll.idleCount =
        (checkIdle (writeBits d (pinToggle s))).coll.idleCount ∧
      (collectSteps d s).coll.pb = (writeBits d (pinToggle s)).coll.pb := by
  obtain ⟨hp, -, -, hpc, hp1, hp3⟩ := pinToggle_effect s
  obtain ⟨hw, -, hwt, hwc⟩ := writeBits_effect d (pinToggle s)
  obtain ⟨hk, hkp, hkt, hkc⟩ := checkIdle_effect (writeBits d (pinToggle s))
  unfold collectSteps
  generalize checkIdle (writeBits d (pinToggle s)) = u at *
  have same : SameButColl s u := sameButColl_trans (sameButColl_trans hp hw) hk
  have hc : u.coll.dataBitCounter = s.coll.dataBitCounter := by rw [hkc, hwc, hpc]
  have ht : u.coll.phaseToggle = (pinToggle s).coll.phaseToggle := by rw [hkt, hwt]
  have hb : u.sync.baud = s.sync.baud := by rw [same.sync]
  cases hsb : s.sync.baud
  · rw [hp1 hsb] at ht
    rw [hsb] at hb
    have e1 : updateToggle u = u := by
      unfold updateToggle
      rw [ht, hb]
    have e2 : advanceBitCounter u =
        { u with coll := { u.coll with dataBitCounter := u.coll.dataBitCounter + 1#12 } } := by
      unfold advanceBitCounter
      exact if_pos (Or.inl hb)
    rw [e1, e2]
    exact ⟨⟨same.1, same.2, same.3, same.4, same.5, same.6, same.7, same.8⟩,
      fun _ => ⟨ht, by simp only [hc]⟩, fun h => absurd h (by decide), rfl, hkp⟩
  · rw [hp3 hsb] at ht
    rw [hsb] at hb
    cases htog : s.coll.phaseToggle
    · rw [htog] at ht
      have e1 : updateToggle u = setToggle true u := by
        unfold updateToggle
        rw [ht, hb]
      have e2 : advanceBitCounter (setToggle true u) = setToggle true u := by
        unfold advanceBitCounter
        exact if_neg (by simp [hb])
      rw [e1, e2]
      exact ⟨⟨same.1, same.2, same.3, same.4, same.5, same.6, same.7, same.8⟩,
        fun h => absurd h (by decide), fun _ => ⟨rfl, hc⟩, rfl, hkp⟩
    · rw [htog] at ht
      have e1 : updateToggle u = setToggle false u := by
        unfold updateToggle
        rw [ht]
      have e2 : advanceBitCounter (setToggle false u) =
          { setToggle false u with
            coll := { u.coll with phaseToggle := false,
                                  dataBitCounter := u.coll.dataBitCounter + 1#12 } } := by
        unfold advanceBitCounter
        exact if_pos (Or.inr rfl)
      rw [e1, e2]
      exact ⟨⟨same.1, same.2, same.3, same.4, same.5, same.6, same.7, same.8⟩,
        fun h => absurd h (by decide), fun _ => ⟨rfl, by simp only [hc, if_true]⟩, rfl, hkp⟩

/-- A collector step at an index that exists keeps the canonical form. -/
theorem collectSteps_wf (d : SymbolBits) {s : State}
    (hi : pbIndexExists (deinterleaveIndex s.coll.dataBitCounter) = true)
    (hm : Memory.wf s.coll.pb = true) : Memory.wf (collectSteps d s).coll.pb = true := by
  obtain ⟨-, hpp, -, hpc, -, -⟩ := pinToggle_effect s
  rw [(collectSteps_effect d s).2.2.2.2]
  exact writeBits_wf d (by rw [hpc]; exact hi) (by rw [hpp]; exact hm)

/-- A collector step raises an idle counter by at most one, and only at an idle-check point and
for a phase it wrote (`44_collector.md` R225). -/
theorem collectSteps_idle (d : SymbolBits) (s : State) (q : Phase) :
    (fourGet (collectSteps d s).coll.idleCount (phaseBits q)).toNat ≤
      (fourGet s.coll.idleCount (phaseBits q)).toNat +
        (if s.coll.dataBitCounter.toNat % 256 = 255 ∧
            q ∈ writtenPhases (pinToggle s).coll.phaseToggle s.sync.levels then 1 else 0) := by
  obtain ⟨hp, -, hpi, hpc, -, -⟩ := pinToggle_effect s
  obtain ⟨hw, hwi, hwt, hwc⟩ := writeBits_effect d (pinToggle s)
  rw [(collectSteps_effect d s).2.2.2.1]
  unfold checkIdle
  rw [hwc, hpc, hwt, hw.sync, hp.sync]
  by_cases h : s.coll.dataBitCounter.toNat % 256 = 255
  · rw [if_pos ((isIdleCheckPoint_iff _).2 h)]
    have k := countIdleWords_count (deinterleaveIndex s.coll.dataBitCounter)
      (writtenPhases (pinToggle s).coll.phaseToggle s.sync.levels) (writeBits d (pinToggle s)) q
      (writtenPhases_nodup _ _)
    rw [hwi, hpi] at k
    simpa [h] using k
  · rw [if_neg (fun e => h ((isIdleCheckPoint_iff _).1 e)), hwi, hpi]
    exact Nat.le_add_right _ _

end Sys2Proof.Machine
end

