-- ==== Sys2Proof/Laws/Demodulator.lean ====
section
/-! SUPPORT. What the sub-steps of one sample can do to the registers, and what one symbol can do
outside the state machine: cited where a statement follows SMP or SYM through a whole command. -/

namespace Sys2Proof.Machine

/-! ### The phase correction -/

/-- Truncation of a non-negative rational is its floor. -/
theorem truncAnalog_of_nonneg {q : Analog} (h : 0 ≤ q) : truncAnalog q = ⌊q⌋ := by
  unfold truncAnalog
  rw [Int.tdiv_eq_ediv_of_nonneg (Rat.num_nonneg.2 h)]
  exact (Rat.floor_def q).symm

/-- Truncation keeps a rational between 0 and an integer between them. -/
theorem truncAnalog_bounds {q : Analog} {m : Int} (h0 : 0 ≤ q) (h1 : q ≤ (m : Analog)) :
    0 ≤ truncAnalog q ∧ truncAnalog q ≤ m := by
  rw [truncAnalog_of_nonneg h0]
  refine ⟨Int.floor_nonneg.2 h0, ?_⟩
  have : ((⌊q⌋ : Int) : Analog) ≤ (m : Analog) := le_trans (Int.floor_le q) h1
  exact_mod_cast this

/-- A correction keeps a phase within its period (`42_demodulator.md` R157). -/
theorem correctedPhase_bounds (t : SampleTiming) (l : Bool) (h0 : 0 ≤ t.ph0)
    (h1 : t.ph0 ≤ t.phaseMax) :
    0 ≤ correctedPhase t l ∧ correctedPhase t l ≤ t.phaseMax := by
  have hr : ∃ r : Analog,
      (if l = true then Config.phaseLockedRate else Config.phaseUnlockedRate) = r ∧
        0 ≤ r ∧ r ≤ 1 := by
    cases l
    · exact ⟨1 / 20, rfl, by norm_num, by norm_num⟩
    · exact ⟨9 / 200, rfl, by norm_num, by norm_num⟩
  obtain ⟨r, hr, r0, r1⟩ := hr
  have a0 : (0 : Analog) ≤ (t.ph0 : Analog) := by exact_mod_cast h0
  have a1 : (t.ph0 : Analog) ≤ (t.phaseMax : Analog) := by exact_mod_cast h1
  unfold correctedPhase
  simp only
  rw [hr]
  cases t.firstHalf
  · simp only [Bool.false_eq_true, if_false]
    push_cast
    exact truncAnalog_bounds (by nlinarith) (by nlinarith)
  · simp only [if_true]
    exact truncAnalog_bounds (by nlinarith) (by nlinarith)

/-! ### The sub-steps of one sample -/

/-- The registers no sub-step of a sample writes. -/
structure SameOutsideSample (s t : State) : Prop where
  configured : t.configured = s.configured
  sampleFreq : t.sampleFreq = s.sampleFreq
  sync : t.sync = s.sync
  coll : t.coll = s.coll
  pending : t.pending = s.pending
  symbolIn : t.symbolIn = s.symbolIn
  lockBuffer : t.demod.lockBuffer = s.demod.lockBuffer

theorem sameOutsideSample_refl (s : State) : SameOutsideSample s s :=
  ⟨rfl, rfl, rfl, rfl, rfl, rfl, rfl⟩

theorem sameOutsideSample_trans {s t u : State} (h : SameOutsideSample s t)
    (k : SameOutsideSample t u) : SameOutsideSample s u :=
  ⟨k.1.trans h.1, k.2.trans h.2, k.3.trans h.3, k.4.trans h.4, k.5.trans h.5, k.6.trans h.6,
    k.7.trans h.7⟩

theorem filterDc_same (rnd : Analog → Analog) (v : Analog) (s : State) :
    SameOutsideSample s (filterDc rnd v s) :=
  ⟨rfl, rfl, rfl, rfl, rfl, rfl, rfl⟩

/-- Step 3 while locked leaves the state machine, `baud` and both lock counters. -/
theorem trackEnvelope_locked {rnd : Analog → Analog} {x : Analog} {s : State}
    (h : s.demod.locked = true) :
    SameOutsideSample s (trackEnvelope rnd x s) ∧ (trackEnvelope rnd x s).frame = s.frame ∧
      (trackEnvelope rnd x s).demod =
        { s.demod with
          envelope := (trackEnvelope rnd x s).demod.envelope
          envelopeSum := (trackEnvelope rnd x s).demod.envelopeSum
          envelopeCount := (trackEnvelope rnd x s).demod.envelopeCount } := by
  unfold trackEnvelope
  rw [if_pos h]
  split
  · exact ⟨⟨rfl, rfl, rfl, rfl, rfl, rfl, rfl⟩, rfl, rfl⟩
  · exact ⟨sameOutsideSample_refl s, rfl, rfl⟩

/-- Step 3 while unlocked is the unlocked reset. -/
theorem trackEnvelope_unlocked {rnd : Analog → Analog} {x : Analog} {s : State}
    (h : s.demod.locked = false) : trackEnvelope rnd x s = unlockedReset s := by
  unfold trackEnvelope
  rw [if_neg (by simp [h])]

theorem unlockedReset_same (s : State) : SameOutsideSample s (unlockedReset s) :=
  ⟨rfl, rfl, rfl, rfl, rfl, rfl, rfl⟩

/-- Step 4 writes the symbol counters only. -/
theorem countLevel_effect (rnd : Analog → Analog) (t : SampleTiming) (x : Analog) (s : State) :
    SameOutsideSample s (countLevel rnd t x s) ∧ (countLevel rnd t x s).frame = s.frame ∧
      (countLevel rnd t x s).response = s.response ∧
      (countLevel rnd t x s).demod =
        { s.demod with symCounts := (countLevel rnd t x s).demod.symCounts } := by
  unfold countLevel
  split
  · exact ⟨⟨rfl, rfl, rfl, rfl, rfl, rfl, rfl⟩, rfl, rfl, rfl⟩
  · exact ⟨sameOutsideSample_refl s, rfl, rfl, rfl⟩

/-- Step 5: without a crossing only `last_sample` is written; with one, the phase is corrected,
the timeout cleared and the crossing counted, which may drop lock. -/
theorem trackCrossing_cases (t : SampleTiming) (x : Analog) (s : State) :
    (isCrossing s.demod.lastSample x = false ∧
        trackCrossing t x s = { s with demod := { s.demod with lastSample := x } }) ∨
      (isCrossing s.demod.lastSample x = true ∧ t.inMid = false ∧
        trackCrossing t x s =
          { s with
            demod :=
              { s.demod with
                phase := correctedPhase t s.demod.locked
                nonconsec := 0#8
                timeout := 0#8
                lastSample := x } }) ∨
      (isCrossing s.demod.lastSample x = true ∧ t.inMid = true ∧
        (s.demod.locked = true → (s.demod.nonconsec + 1#8).toNat < 20) ∧
        trackCrossing t x s =
          { s with
            demod :=
              { s.demod with
                phase := correctedPhase t s.demod.locked
                nonconsec := s.demod.nonconsec + 1#8
                timeout := 0#8
                lastSample := x } }) ∨
      (isCrossing s.demod.lastSample x = true ∧ t.inMid = true ∧ s.demod.locked = true ∧
        20 ≤ (s.demod.nonconsec + 1#8).toNat ∧
        trackCrossing t x s =
          emit (.lockLost .crossings)
            { s with
              demod :=
                { s.demod with
                  phase := correctedPhase t s.demod.locked
                  nonconsec := s.demod.nonconsec + 1#8
                  timeout := 0#8
                  locked := false
                  lastSample := x } }) := by
  unfold trackCrossing
  cases hc : isCrossing s.demod.lastSample x
  · exact Or.inl ⟨rfl, rfl⟩
  · right
    simp only [if_true]
    unfold handleCrossing countCrossing
    cases hm : t.inMid
    · exact Or.inl ⟨trivial, rfl, rfl⟩
    · right
      simp only [if_true]
      split
      · rename_i h
        exact Or.inr ⟨trivial, trivial, h.1, h.2, rfl⟩
      · rename_i h
        have h' : s.demod.locked = true → (s.demod.nonconsec + 1#8).toNat < 20 := fun hl =>
          Nat.lt_of_not_le fun hn => h ⟨hl, hn⟩
        exact Or.inl ⟨trivial, trivial, h', rfl⟩

/-- Step 5 leaves the state machine and `baud`. -/
theorem trackCrossing_same (t : SampleTiming) (x : Analog) (s : State) :
    SameOutsideSample s (trackCrossing t x s) ∧ (trackCrossing t x s).frame = s.frame ∧
      (trackCrossing t x s).demod.baud = s.demod.baud := by
  rcases trackCrossing_cases t x s with ⟨-, h⟩ | ⟨-, -, h⟩ | ⟨-, -, -, h⟩ | ⟨-, -, -, -, h⟩ <;>
    rw [h] <;> exact ⟨⟨rfl, rfl, rfl, rfl, rfl, rfl, rfl⟩, rfl, rfl⟩

/-- Steps 2 to 5 leave everything outside the demodulator but the `state` that step 3 forces. -/
theorem sampleSteps_same (rnd : Analog → Analog) (t : SampleTiming) (v : Analog) (s : State) :
    SameOutsideSample s (sampleSteps rnd t v s) ∧
      (s.demod.locked = true → (sampleSteps rnd t v s).frame = s.frame ∧
        (sampleSteps rnd t v s).demod.baud = s.demod.baud) ∧
      (s.demod.locked = false →
        (sampleSteps rnd t v s).frame = { s.frame with state := .sync1 } ∧
          (sampleSteps rnd t v s).demod.baud = .b1600) := by
  have e : sampleSteps rnd t v s =
      trackCrossing t (dcCorrected rnd v (filterDc rnd v s))
        (countLevel rnd t (dcCorrected rnd v (filterDc rnd v s))
          (trackEnvelope rnd (dcCorrected rnd v (filterDc rnd v s)) (filterDc rnd v s))) := rfl
  rw [e]
  generalize dcCorrected rnd v (filterDc rnd v s) = x
  have ha := filterDc_same rnd v s
  have hf : (filterDc rnd v s).frame = s.frame := rfl
  have hl : (filterDc rnd v s).demod.locked = s.demod.locked := rfl
  have hb : (filterDc rnd v s).demod.baud = s.demod.baud := rfl
  generalize filterDc rnd v s = a at *
  obtain ⟨hd, hdf, hdb⟩ := trackCrossing_same t x (countLevel rnd t x (trackEnvelope rnd x a))
  obtain ⟨hc, hcf, -, hcd⟩ := countLevel_effect rnd t x (trackEnvelope rnd x a)
  have hcb : (countLevel rnd t x (trackEnvelope rnd x a)).demod.baud =
      (trackEnvelope rnd x a).demod.baud := by rw [hcd]
  cases h : s.demod.locked
  · have hE := trackEnvelope_unlocked (rnd := rnd) (x := x) (hl.trans h)
    rw [hE] at hd hdf hdb hc hcf hcb ⊢
    refine ⟨sameOutsideSample_trans ha
      (sameOutsideSample_trans (unlockedReset_same a) (sameOutsideSample_trans hc hd)),
      fun k => absurd k (by simp), fun _ => ⟨?_, ?_⟩⟩
    · rw [hdf, hcf, ← hf]
      rfl
    · rw [hdb, hcb]
      rfl
  · obtain ⟨hE, hEf, hEd⟩ := trackEnvelope_locked (rnd := rnd) (x := x) (hl.trans h)
    have hEb : (trackEnvelope rnd x a).demod.baud = a.demod.baud := by rw [hEd]
    exact ⟨sameOutsideSample_trans ha (sameOutsideSample_trans hE (sameOutsideSample_trans hc hd)),
      fun _ => ⟨hdf.trans (hcf.trans (hEf.trans hf)), hdb.trans (hcb.trans (hEb.trans hb))⟩,
      fun k => absurd k (by simp)⟩

/-! ### One symbol -/

/-- A symbol writes no demodulator register but `baud`, and nothing of the configuration or the
port. -/
theorem symbolHandler_same {q : Symbol} {s t : State} (h : symbolHandler q s = .ok t) :
    t.configured = s.configured ∧ t.sampleFreq = s.sampleFreq ∧ t.pending = s.pending ∧
      t.symbolIn = s.symbolIn ∧ t.demod = { s.demod with baud := t.demod.baud } := by
  rcases symbolHandler_cases h with ⟨-, e⟩ | ⟨-, e⟩ | ⟨-, e⟩ | ⟨-, -, e⟩
  · rcases handleSync1_cases (decodeSymbol s.sync.polarity q) s with ⟨pol, b, -, he⟩ | ⟨-, he⟩ <;>
      rw [e, he] <;> simp [recordMatch]
  · by_cases h48 : (shiftFiw (decodeSymbol s.sync.polarity q) s).frame.fiwCount.toNat = 48
    · rw [e, handleFiw_full h48]
      rcases checkFiw_cases (shiftFiw (decodeSymbol s.sync.polarity q) s) with
        ⟨-, he⟩ | ⟨w, n, -, -, he⟩ | ⟨w, n, -, -, he⟩ <;> rw [he] <;>
        simp [rejectFiw, acceptFiw, shiftFiw]
    · rw [e, handleFiw_below h48]
      simp [shiftFiw]
  · rw [e, handleSync2_eq]
    split <;> simp [countSync2]
  · obtain ⟨same, -⟩ := collectSteps_effect (decodeSymbol s.sync.polarity q) s
    rcases countData_cases (collectSteps (decodeSymbol s.sync.polarity q) s) with
      ⟨he, -⟩ | ⟨he, -⟩ <;> rw [e, he] <;>
      simp [countDataSymbol, endFrame, same.1, same.2, same.3, same.6, same.8]

end Sys2Proof.Machine
end

