-- ==== Sys2Proof/Laws/PerInstr.lean ====
section
/-! SUPPORT. The family of per-instruction lemmas: the word of each instruction has the fixed bits of
its row of `spec/opcode_table.json` (`30_encoding.md` R91, R94, R95, R102, R108). -/

namespace Sys2Proof.Laws.EncodesToItsRow

/-- What a row of the opcode table fixes: an opcode, a code within distance 3, a code near no row,
a symbol, a state code. -/
inductive RowPattern where
  | opcode (op : BitVec 4)
  | code (row : BitVec 16)
  | noCode
  | symbol (q : Symbol)
  | stateCode (c : BitVec 2)
deriving DecidableEq, Repr

/-- The word is one of the row's words. -/
def fits : PortWord → RowPattern → Bool
  | .command w, .opcode op => decide (w.extractLsb' 32 4 = op)
  | .syncCode c, .code row => decide (hamming c row ≤ 3)
  | .syncCode c, .noCode => selectsNone c
  | .symbol q, .symbol q' => decide (q = q')
  | .stateCode c, .stateCode c' => decide (c = c')
  | _, _ => false

/-- The row of an instruction. -/
def rowOf : Instr → RowPattern
  | .cfg _ => .opcode 0x1#4
  | .rst => .opcode 0x2#4
  | .smp _ => .opcode 0x3#4
  | .sym _ => .opcode 0x4#4
  | .bchfix _ => .opcode 0x5#4
  | .bchenc _ => .opcode 0x6#4
  | .rdpb _ _ => .opcode 0x7#4
  | .rdcsr _ => .opcode 0x8#4
  | .illegal0 => .opcode 0x0#4
  | .illegal9 => .opcode 0x9#4
  | .illegalA => .opcode 0xA#4
  | .illegalB => .opcode 0xB#4
  | .illegalC => .opcode 0xC#4
  | .illegalD => .opcode 0xD#4
  | .illegalE => .opcode 0xE#4
  | .illegalF => .opcode 0xF#4
  | .syncCode870C _ => .code 0x870C#16
  | .syncCodeB068 _ => .code 0xB068#16
  | .syncCode7B18 _ => .code 0x7B18#16
  | .syncCodeDEA0 _ => .code 0xDEA0#16
  | .syncCode4C7C _ => .code 0x4C7C#16
  | .syncCodeUnknown _ => .noCode
  | .symbol0 => .symbol 0#2
  | .symbol1 => .symbol 1#2
  | .symbol2 => .symbol 2#2
  | .symbol3 => .symbol 3#2
  | .stateSync1 => .stateCode 0#2
  | .stateFiw => .stateCode 1#2
  | .stateSync2 => .stateCode 2#2
  | .stateData => .stateCode 3#2

/-- The word of a well-formed instruction is one of its row's words. -/
def Statement (i : Instr) : Prop := i.wellFormed = true → fits (encode i) (rowOf i) = true

theorem opcode_of_commandWord (op : BitVec 4) (v : Word) :
    fits (commandWord op v) (.opcode op) = true := by
  simp only [fits, commandWord, decide_eq_true_eq]
  apply BitVec.eq_of_toNat_eq
  have hv := v.isLt
  have ho := op.isLt
  simp only [BitVec.extractLsb'_toNat, BitVec.toNat_append, Nat.shiftRight_eq_div_pow]
  rw [← Nat.shiftLeft_add_eq_or_of_lt hv, Nat.shiftLeft_eq]
  omega

theorem cfg (f : Word) : Statement (.cfg f) := fun _ => opcode_of_commandWord _ _
theorem rst : Statement .rst := fun _ => opcode_of_commandWord _ _
theorem smp (v : Word) : Statement (.smp v) := fun _ => opcode_of_commandWord _ _
theorem sym (q : Symbol) : Statement (.sym q) := fun _ => opcode_of_commandWord _ _
theorem bchfix (w : Word) : Statement (.bchfix w) := fun _ => opcode_of_commandWord _ _
theorem bchenc (d : BitVec 21) : Statement (.bchenc d) := fun _ => opcode_of_commandWord _ _
theorem rdpb (p : Phase) (k : BitVec 7) : Statement (.rdpb p k) := fun _ => opcode_of_commandWord _ _
theorem rdcsr (n : BitVec 8) : Statement (.rdcsr n) := fun _ => opcode_of_commandWord _ _
theorem illegal0 : Statement .illegal0 := fun _ => opcode_of_commandWord _ _
theorem illegal9 : Statement .illegal9 := fun _ => opcode_of_commandWord _ _
theorem illegalA : Statement .illegalA := fun _ => opcode_of_commandWord _ _
theorem illegalB : Statement .illegalB := fun _ => opcode_of_commandWord _ _
theorem illegalC : Statement .illegalC := fun _ => opcode_of_commandWord _ _
theorem illegalD : Statement .illegalD := fun _ => opcode_of_commandWord _ _
theorem illegalE : Statement .illegalE := fun _ => opcode_of_commandWord _ _
theorem illegalF : Statement .illegalF := fun _ => opcode_of_commandWord _ _
theorem syncCode870C (c : BitVec 16) : Statement (.syncCode870C c) := fun h => h
theorem syncCodeB068 (c : BitVec 16) : Statement (.syncCodeB068 c) := fun h => h
theorem syncCode7B18 (c : BitVec 16) : Statement (.syncCode7B18 c) := fun h => h
theorem syncCodeDEA0 (c : BitVec 16) : Statement (.syncCodeDEA0 c) := fun h => h
theorem syncCode4C7C (c : BitVec 16) : Statement (.syncCode4C7C c) := fun h => h
theorem syncCodeUnknown (c : BitVec 16) : Statement (.syncCodeUnknown c) := fun h => h
theorem symbol0 : Statement .symbol0 := fun _ => rfl
theorem symbol1 : Statement .symbol1 := fun _ => rfl
theorem symbol2 : Statement .symbol2 := fun _ => rfl
theorem symbol3 : Statement .symbol3 := fun _ => rfl
theorem stateSync1 : Statement .stateSync1 := fun _ => rfl
theorem stateFiw : Statement .stateFiw := fun _ => rfl
theorem stateSync2 : Statement .stateSync2 := fun _ => rfl
theorem stateData : Statement .stateData := fun _ => rfl

end Sys2Proof.Laws.EncodesToItsRow
end

