-- ==== Sys2Proof/Tests/Slice0.lean ====
section
/-! SUPPORT. Tests: ill-formed terms, words written out bit by bit, one step of each instruction on a
small state with the result the spec gives, and for each statement with hypotheses a state and
operands that meet them. -/

namespace Sys2Proof.Tests

open Sys2Proof.Machine Sys2Proof.Safety

-- One test at a time: the tests' kernel evaluations, begun all at once, each hold a thread.
set_option Elab.async false

/-! ### Well-formedness: for each check a term it refuses -/

theorem test_illFormed_870C : (Instr.syncCode870C 0x8703#16).wellFormed = false := by decide
theorem test_illFormed_B068 : (Instr.syncCodeB068 0x870C#16).wellFormed = false := by decide
theorem test_illFormed_7B18 : (Instr.syncCode7B18 0x0000#16).wellFormed = false := by decide
theorem test_illFormed_DEA0 : (Instr.syncCodeDEA0 0x4C7C#16).wellFormed = false := by decide
theorem test_illFormed_4C7C : (Instr.syncCode4C7C 0xDEA0#16).wellFormed = false := by decide
theorem test_illFormed_unknown : (Instr.syncCodeUnknown 0x870B#16).wellFormed = false := by decide

/-! ### Decoding: a word of each constructor, written out from the row's encoding -/

theorem test_decode_cfg :
    decode (.command 0b000100000000000000000101011000100010#36) = .cfg 22050#32 := by decide
theorem test_decode_rst :
    decode (.command 0b001011111111111111111111111111111111#36) = .rst := by decide
theorem test_decode_smp :
    decode (.command 0b001110111111000000000000000000000000#36) = .smp 0xBF000000#32 := by decide
theorem test_decode_sym :
    decode (.command 0b010011111111111111111111111111111110#36) = .sym 2#2 := by decide
theorem test_decode_bchfix :
    decode (.command 0b010100111011011000000000001100101010#36) = .bchfix 0x3B60032A#32 := by decide
theorem test_decode_bchenc :
    decode (.command 0b011011111111111000010010001101000101#36) = .bchenc 0x12345#21 := by decide
theorem test_decode_rdpb :
    decode (.command 0b011111111111111111111111111100000111#36) = .rdpb .c 7#7 := by decide
theorem test_decode_rdcsr :
    decode (.command 0b100011111111111111111111111100010011#36) = .rdcsr 0x13#8 := by decide
theorem test_decode_illegal0 :
    decode (.command 0b000000000000000000000000000000000001#36) = .illegal0 := by decide
theorem test_decode_illegal9 :
    decode (.command 0b100100000000000000000000000000000001#36) = .illegal9 := by decide
theorem test_decode_illegalA :
    decode (.command 0b101000000000000000000000000000000001#36) = .illegalA := by decide
theorem test_decode_illegalB :
    decode (.command 0b101100000000000000000000000000000001#36) = .illegalB := by decide
theorem test_decode_illegalC :
    decode (.command 0b110000000000000000000000000000000001#36) = .illegalC := by decide
theorem test_decode_illegalD :
    decode (.command 0b110100000000000000000000000000000001#36) = .illegalD := by decide
theorem test_decode_illegalE :
    decode (.command 0b111000000000000000000000000000000001#36) = .illegalE := by decide
theorem test_decode_illegalF :
    decode (.command 0b111100000000000000000000000000000001#36) = .illegalF := by decide
theorem test_decode_syncCode870C :
    decode (.syncCode 0b1000011100001011#16) = .syncCode870C 0x870B#16 := by decide
theorem test_decode_syncCodeB068 :
    decode (.syncCode 0b1011000001101000#16) = .syncCodeB068 0xB068#16 := by decide
theorem test_decode_syncCode7B18 :
    decode (.syncCode 0b0111101100011000#16) = .syncCode7B18 0x7B18#16 := by decide
theorem test_decode_syncCodeDEA0 :
    decode (.syncCode 0b1101111110100001#16) = .syncCodeDEA0 0xDFA1#16 := by decide
theorem test_decode_syncCode4C7C :
    decode (.syncCode 0b0100110001111100#16) = .syncCode4C7C 0x4C7C#16 := by decide
theorem test_decode_syncCodeUnknown :
    decode (.syncCode 0b0001001000110100#16) = .syncCodeUnknown 0x1234#16 := by decide
theorem test_decode_symbol0 : decode (.symbol 0b00#2) = .symbol0 := by decide
theorem test_decode_symbol1 : decode (.symbol 0b01#2) = .symbol1 := by decide
theorem test_decode_symbol2 : decode (.symbol 0b10#2) = .symbol2 := by decide
theorem test_decode_symbol3 : decode (.symbol 0b11#2) = .symbol3 := by decide
theorem test_decode_stateSync1 : decode (.stateCode 0b00#2) = .stateSync1 := by decide
theorem test_decode_stateFiw : decode (.stateCode 0b01#2) = .stateFiw := by decide
theorem test_decode_stateSync2 : decode (.stateCode 0b10#2) = .stateSync2 := by decide
theorem test_decode_stateData : decode (.stateCode 0b11#2) = .stateData := by decide
theorem test_decode_table_words :
    decodeTableWord 40 0x53B60032A = some (.bchfix 0x3B60032A#32) ∧
      decodeTableWord 16 0x7B18 = some (.syncCode7B18 0x7B18#16) ∧
      decodeTableWord 8 3 = some .symbol3 ∧ decodeTableWord 8 4 = none ∧
      decodeTableWord 40 0x1000000000 = none := by decide

/-! ### Small states -/

/-- The state an outcome answers. -/
def stateOf : Host.Outcome State Fault Refusal → Option State
  | .next t => some t
  | .fault _ => none
  | .refused _ => none

/-- The block after power-on and CFG 16000. -/
def base : State := { State.reset with configured := true, sampleFreq := 16000#32 }

/-- A configured block in a frame state. -/
def inState (st : FrameState) : State := { base with frame := { Frame.reset with state := st } }

/-- A configured block in DATA at a counter value, at a baud and levels. -/
def inData (b : Baud) (l : Levels) (c : BitVec 12) : State :=
  { inState .data with
    sync := { Sync.reset with baud := b, levels := l }
    coll := { Collector.reset with dataBitCounter := c } }

/-- A configured block in FIW after a number of symbols, with what they left. -/
def inFiw (n : BitVec 6) (raw : Word) : State :=
  { base with frame := { Frame.reset with state := .fiw, fiwCount := n, fiwRaw := raw } }

/-- A configured block in SYNC2 after a number of symbols. -/
def inSync2 (b : Baud) (n : BitVec 7) : State :=
  { base with
    sync := { Sync.reset with baud := b }
    frame := { Frame.reset with state := .sync2, sync2Count := n } }

/-- A configured block whose next symbol, a 1 bit, completes a sync buffer (Y1 of
`95_test_vectors.md`). -/
def beforeSync (b : BitVec 64) : State := { base with sync := { Sync.reset with syncBuf := b } }

/-- The state before vector M14 of `95_test_vectors.md`. -/
def m14 : State :=
  { inState .data with
    demod :=
      { Demod.reset with
        locked := true, envelope := 1 / 2, phase := 800000, lastSample := 1 / 4, nonconsec := 19#8
        timeout := 7#8 } }

/-- The state before vector M16. -/
def m16 : State :=
  { inSync2 .b1600 3#7 with
    demod :=
      { Demod.reset with
        locked := true, envelope := 1, timeout := 100#8, phase := 1500000, lastSample := 1
        symCounts := ⟨0#32, 0#32, 1#32, 6#32⟩, sampleCount := 1000, symbolCount := 99 } }

/-- The state before vector M18. -/
def m18 : State :=
  { base with
    demod :=
      { Demod.reset with
        lockBuffer := 0x266666666666#64, phase := 1500000, lastSample := 1
        symCounts := ⟨5#32, 0#32, 0#32, 0#32⟩, sampleCount := 229, symbolCount := 23 } }

/-- The binary32 words of 1, -1/4. -/
def one : Word := 0x3F800000#32
def minusQuarter : Word := 0xBE800000#32

/-! ### One step of each instruction -/

/-- `95_test_vectors.md` section 7: CFG 22050. -/
theorem test_cfg_configures :
    (stateOf (exec (.cfg 22050#32) m14)).map (fun t => (t.configured, t.sampleFreq, t.frame.state,
      t.demod.locked, t.response)) =
      some (true, 22050#32, .sync1, false, okResponse 0) := by decide +kernel

/-- Section 7: CFG 0 changes nothing. -/
theorem test_cfg_zero_refused :
    (stateOf (exec (.cfg 0#32) m14)).map (fun t => (t.configured, t.sampleFreq, t.frame.state,
      t.response)) =
      some (true, 16000#32, .data, refusal .invalidConfiguration) := by decide +kernel

/-- `46_host_commands.md` R272. -/
theorem test_rst_resets :
    (stateOf (exec .rst m14)).map (fun t => (t.configured, t.sampleFreq, t.frame.state,
      t.demod.phase, t.response)) =
      some (true, 16000#32, .sync1, 0, okResponse 0) := by decide +kernel

/-- Vector M14: lock dropped by crossings. -/
theorem test_smp_drops_lock :
    (stateOf (exec (.smp minusQuarter) m14)).map (fun t => (t.demod.symCounts.n1, t.demod.phase,
      t.demod.locked, t.frame.state, t.response.events)) =
      some (1#32, 996000, false, .data, [.lockLost .crossings]) := by
  decide +kernel

/-- Vector M18: lock acquired. -/
theorem test_smp_acquires_lock :
    (stateOf (exec (.smp one) m18)).map (fun t => (t.demod.locked, t.demod.lockBuffer,
      t.demod.sampleCount, t.demod.symbolRate, t.response.events)) =
      some (true, 0#64, 0, 38400 / 23, [.symbol 0#2 false, .lockAcquired]) := by
  decide +kernel

/-- Vector Y1: the last symbol of a sync word. -/
theorem test_sym_finds_sync :
    (stateOf (exec (.sym 0#2) (beforeSync 0x4386536355553C79#64))).map (fun t =>
      (t.sync.syncBuf, t.frame.state, t.response.events)) =
      some (0x870CA6C6AAAA78F3#64, .fiw,
        [.syncFound 0x870C#16 .b1600 .two .normal true]) := by decide +kernel

/-- `44_collector.md` section 5: the second step of 3200/4. -/
theorem test_sym_collects :
    (stateOf (exec (.sym 1#2) { inData .b3200 .four 0#12 with
      coll := { Collector.reset with phaseToggle := true } })).map (fun t =>
      (pbRead .c 0#7 t, pbRead .d 0#7 t, t.coll.phaseToggle, t.coll.dataBitCounter)) =
      some (0#32, 0x80000000#32, false, 1#12) := by decide +kernel

/-- `95_test_vectors.md` section 2. -/
theorem test_bchfix_double :
    (stateOf (exec (.bchfix 0xBB6803AA#32) State.reset)).map (fun t => t.response) =
      some { status := .ok, value := 0x3B60032A#32, aux := 6#3, events := [] } := by
  decide +kernel

theorem test_bchfix_uncorrectable :
    (stateOf (exec (.bchfix 0x3B60032D#32) State.reset)).map (fun t => t.response) =
      some { status := .err .bchUncorrectable, value := 0x3B60032D#32, aux := 0#3, events := [] } := by
  decide +kernel

theorem test_bchenc_fiw :
    (stateOf (exec (.bchenc 0x32A#21) State.reset)).map (fun t => t.response) =
      some (okResponse 0x3B60032A#32) := by decide +kernel

theorem test_bchenc_alternating :
    (stateOf (exec (.bchenc 0x155555#21) State.reset)).map (fun t => t.response) =
      some (okResponse 0x58F55555#32) := by decide +kernel

theorem test_rdpb_reads :
    (stateOf (exec (.rdpb .d 87#7)
      { State.reset with coll := { Collector.reset with pb := [(471, 7#32)] } })).map
      (fun t => t.response) = some (okResponse 7#32) := by decide +kernel

theorem test_rdpb_refuses_88 :
    (stateOf (exec (.rdpb .a 88#7) State.reset)).map (fun t => t.response) =
      some (refusal .badAddress) := by decide +kernel

theorem test_rdcsr_status :
    (stateOf (exec (.rdcsr 0x00#8) base)).map (fun t => t.response) =
      some (okResponse 0x100#32) := by decide +kernel

/-- SEQ_COUNT at the end of P2, `95_test_vectors.md` section 8. -/
theorem test_rdcsr_seqCount :
    (stateOf (exec (.rdcsr 0x05#8) { base with frame :=
      { Frame.reset with fiwCount := 48#6, sync2Count := 80#7, dataCount := 512#13 } })).map
      (fun t => t.response) = some (okResponse 0x02005030#32) := by decide +kernel

/-- Section 7: an illegal opcode on an unconfigured block is IllegalCommand. -/
theorem test_illegal_refused :
    [Instr.illegal0, .illegal9, .illegalA, .illegalB, .illegalC, .illegalD, .illegalE,
      .illegalF].map (fun i => (stateOf (exec i State.reset)).map (fun t => t.response)) =
      List.replicate 8 (some (refusal .illegalCommand)) := by decide +kernel

/-- `30_encoding.md` R94 and R95, with the vectors Y3 to Y7. -/
theorem test_syncCode_rows :
    [Instr.syncCode870C 0x870C#16, .syncCodeB068 0xB068#16, .syncCode7B18 0x7B18#16,
      .syncCodeDEA0 0xDFA1#16, .syncCode4C7C 0x4C7C#16, .syncCodeUnknown 0x1234#16].map
      (fun i => (stateOf (exec i base)).map (fun t => (t.sync.syncCode, t.sync.baud,
        t.sync.levels))) =
      [some (0x870C#32, .b1600, .two), some (0xB068#32, .b1600, .four),
        some (0x7B18#32, .b3200, .two), some (0xDFA1#32, .b3200, .four),
        some (0x4C7C#32, .b3200, .four), some (0x1234#32, .b1600, .two)] := by decide +kernel

/-- `30_encoding.md` R91, at normal polarity. -/
theorem test_symbol_rows :
    [Instr.symbol0, .symbol1, .symbol2, .symbol3].map
      (fun i => (stateOf (exec i base)).map (fun t => t.symbolIn)) =
      [some ⟨false, false, true, 1#2⟩, some ⟨false, true, true, 0#2⟩,
        some ⟨true, true, false, 3#2⟩, some ⟨true, false, false, 2#2⟩] := by decide +kernel

/-- `45_state_machine.md` R242: a 1 bit is shifted in (the symbol input is that of symbol 0). -/
theorem test_stateSync1_shifts :
    (stateOf (exec .stateSync1 (beforeSync 2#64))).map (fun t => (t.sync.syncBuf, t.frame.state)) =
      some (5#64, .sync1) := by decide +kernel

/-- Vector F4: two errors, the last bit 1. -/
theorem test_stateFiw_accepts :
    (stateOf (exec .stateFiw { inFiw 47#6 0x76D00754#32 with
      symbolIn := ⟨true, false, false, 2#2⟩ })).map (fun t => (t.frame.fiwRaw, t.frame.cycleNo,
        t.frame.frameNo, t.frame.state, t.response.events)) =
      some (0x3B60032A#32, 2#4, 3#7, .sync2, [.fiwAccepted 2#4 3#7 0x3B60032A#32 2]) := by
  decide +kernel

/-- `45_state_machine.md` R246: the 40th symbol. -/
theorem test_stateSync2_ends :
    (stateOf (exec .stateSync2 (inSync2 .b1600 39#7))).map (fun t => (t.frame.sync2Count,
      t.frame.state)) = some (40#7, .data) := by decide +kernel

/-- `44_collector.md` section 5: the 256th symbol of a 1600/2 frame ends it. -/
theorem test_stateData_ends :
    (stateOf (exec .stateData { inData .b1600 .two 255#12 with
      coll := { Collector.reset with dataBitCounter := 255#12, pb := [(7, 0xFFFFFFFE#32)] }
      symbolIn := ⟨true, false, false, 2#2⟩ })).map (fun t => (pbRead .a 7#7 t,
        t.coll.idleCount.n0, t.coll.dataBitCounter, t.response.events)) =
      some (0xFFFFFFFF#32, 1#8, 256#12,
        [.frameReady true false .b1600 .two .normal 0#4 0#7]) := by decide +kernel

/-! ### Codes -/

/-- `60_exceptions.md` R290. -/
theorem test_errorCodes :
    [ErrorCode.invalidConfiguration, .bchUncorrectable, .fiwChecksumMismatch, .lockLoss,
      .notConfigured, .illegalCommand, .badAddress, .badOperand].map errorCodeNumber =
      [1, 2, 3, 4, 5, 6, 7, 8] := by decide

/-- `60_exceptions.md` R297. -/
theorem test_eventCodes :
    [Event.lockAcquired, .lockLost .timeout, .syncFound 0 .b1600 .two .normal true,
      .fiwAccepted 0 0 0 0, .fiwRejected .checksum 0,
      .frameReady true false .b1600 .two .normal 0 0, .symbol 0 true].map eventNumber =
      [1, 2, 3, 4, 5, 6, 7] := by decide

/-! ### Samples -/

/-- The binary32 values of 1, -1/4, -0.0 and the least subnormal. -/
theorem test_sampleValue :
    sampleValue one = 1 ∧ sampleValue minusQuarter = -1 / 4 ∧ sampleValue 0x80000000#32 = 0 ∧
      sampleValue 0x00000001#32 = 1 / 2 ^ 149 := by decide +kernel

theorem test_reset_memory : Memory.wf State.reset.coll.pb = true := by decide

/-! ### Witnesses: for each statement with hypotheses a state and operands that meet them, each
clause at a boundary -/

theorem test_witness_DecodeOfEncode :
    [Instr.syncCode870C 0x870B#16, .syncCodeB068 0xB06F#16, .syncCode7B18 0x7B1F#16,
      .syncCodeDEA0 0xDEA7#16, .syncCode4C7C 0x4C7B#16, .syncCodeUnknown 0x8703#16, .stateData].all
      Instr.wellFormed = true := by decide

theorem test_witness_SyncCodeRowUnique :
    (Config.code870C, Baud.b1600, Levels.two) ∈ modeTable ∧
      popcount (0x870B#16 ^^^ Config.code870C) = 3 := by decide

theorem test_witness_StepRunsDecodedInstruction :
    ({ base with pending := [.command 0x200000000#36, .symbol 1#2] }).pending =
        [.command 0x200000000#36, .symbol 1#2] ∧
      decode (.command 0x200000000#36) = .rst ∧ base.pending = [] := by decide

theorem test_witness_CfgConfiguresOrRefuses : (1#32 : Word) ≠ 0 ∧ (0xFFFFFFFF#32 : Word) ≠ 0 := by
  decide

theorem test_witness_IllegalOpcodesRefused :
    Instr.illegal0 ∈ illegalRows ∧ Instr.illegalF ∈ illegalRows := by decide

theorem test_witness_SmpAndSymRefusals :
    State.reset.configured = false ∧ base.configured = true ∧
      (0x7F800000#32 : Word).extractLsb' 23 8 = 0xFF#8 ∧
      (0xFFC00000#32 : Word).extractLsb' 23 8 = 0xFF#8 := by decide

theorem test_witness_ErrorsChangeNoRegister :
    ∃ t, exec .illegal0 base = .next t ∧ t.response.status = .err .illegalCommand :=
  ⟨_, rfl, rfl⟩

theorem test_witness_PortFieldsStay :
    ∃ t, exec .symbol3 { base with pending := [.symbol 1#2] } = .next t ∧
      t.pending = [.symbol 1#2] := ⟨_, rfl, rfl⟩

theorem test_witness_OnlyCfgWritesConfiguration :
    ∃ t, exec (.cfg 1#32) base = .next t ∧ base.configured = true := ⟨_, rfl, rfl⟩

theorem test_witness_SyndromesZeroOnCodewords :
    syndrome 1 0x3B60032A#32 = 0 ∧ syndrome 3 0x3B60032A#32 = 0 := by decide +kernel

theorem test_witness_BchfixResponse :
    fixErrors 0xFFFFFFFF#32 = some (0x7FFFFFFF#32, 0) ∧ fixErrors 0x3B60010B#32 = none := by
  decide +kernel

theorem test_witness_CorrectsUpToTwoErrors :
    hamming (codeBits 0xBB60032A#32) (codeBits (bchEncode 0x32A#21)) = 0 ∧
      hamming (codeBits 0x7B60032A#32) (codeBits (bchEncode 0x32A#21)) = 1 ∧
      hamming (codeBits 0x7B60032B#32) (codeBits (bchEncode 0x32A#21)) = 2 := by decide +kernel

theorem test_witness_SuccessHoldsACodeword :
    fixErrors 0x7B60032B#32 = some (0x3B60032A#32, 2) ∧
      fixErrors 0x3B600321#32 = some (0x3B6083A1#32, 2) := by decide +kernel

theorem test_witness_RdpbReadsOrRefuses : (87#7).toNat ≤ 87 ∧ 87 < (88#7).toNat := by decide

theorem test_witness_RdcsrReadsTheMap :
    (0x00#8, 256) ∈ registerMap base ∧ (0x19#8, 0) ∈ registerMap base := by decide +kernel

theorem test_witness_RdcsrRefusesUnlisted :
    (0x0F#8 : BitVec 8) = 0x0F#8 ∧ 0x19 < (0x1A#8).toNat ∧ 0x19 < (0xFF#8).toNat := by decide

/-- A sample in each state it may meet, with the counters in range: the premises of the SMP
statements. -/
theorem test_witness_SampleRuns :
    SampleRuns one base ∧ SampleRuns minusQuarter m14 ∧ SampleRuns one m16 ∧
      SampleRuns one m18 ∧ SampleRuns one (inData .b1600 .two 2815#12) := by
  unfold SampleRuns
  decide +kernel

theorem test_witness_LockCountersBounded :
    LockCountersBounded base ∧ LockCountersBounded m14 ∧ LockCountersBounded m16 ∧
      LockCountersBounded m18 := by
  unfold LockCountersBounded
  decide +kernel

theorem test_witness_SmpTracksDcOffset : SampleRuns one base ∧ SampleRuns one m16 := by
  unfold SampleRuns
  decide +kernel

theorem test_witness_SmpTracksEnvelope :
    base.demod.locked = false ∧ (m14.demod.locked = true ∧ m14.frame.state ≠ .sync1) ∧
      ({ base with demod := m14.demod }).demod.locked = true ∧
      ({ base with demod := m14.demod }).frame.state = .sync1 ∧
      SampleRuns one { base with demod := m14.demod } := by
  unfold SampleRuns
  decide +kernel

theorem test_witness_SmpAdvancesPhase : symbolEnds minusQuarter m14 = false ∧
    signChanges minusQuarter m14 = true ∧ symbolEnds one m16 = true := by decide +kernel

theorem test_witness_SmpCountsCrossings :
    LockCountersBounded m14 ∧ SampleRuns minusQuarter m14 ∧ dropsLock minusQuarter m14 = true ∧
      crossingsAfter minusQuarter m14 = 20 := by
  unfold LockCountersBounded SampleRuns
  decide +kernel

theorem test_witness_SmpSlicesAndDecides :
    symbolEnds minusQuarter m14 = false ∧ symbolEnds one m18 = true ∧ SampleRuns one m16 ∧
      LockCountersBounded m16 ∧ symbolEnds one m16 = true ∧ holdsLock one m16 = true := by
  unfold SampleRuns LockCountersBounded
  decide +kernel

/-- The pattern completes from `m18`, and does not from an empty lock buffer. -/
theorem test_witness_SmpDetectsLock :
    symbolEnds one m18 = true ∧ holdsLock one m18 = false ∧
      (stateOf (exec (.smp one) m18)).map (fun t => lockPattern
        ((m18.demod.lockBuffer <<< 2) ||| (t.demod.modalSymbol ^^^ 1).setWidth 64)) = some true ∧
      (stateOf (exec (.smp one) { m18 with demod := { m18.demod with lockBuffer := 0#64 } })).map
        (fun t => lockPattern ((t.demod.modalSymbol ^^^ 1).setWidth 64)) = some false := by
  decide +kernel

theorem test_witness_SmpForwardsLikeSym :
    SampleRuns one m16 ∧ LockCountersBounded m16 ∧ symbolEnds one m16 = true ∧
      holdsLock one m16 = true ∧ timesOut one m16 = true := by
  unfold SampleRuns LockCountersBounded
  decide +kernel

theorem test_witness_SmpCountsTimeout :
    SampleRuns one m16 ∧ LockCountersBounded m16 ∧ timeoutBefore one m16 = 100 ∧
      symbolEnds one m16 = true ∧ holdsLock one m16 = true ∧
      SampleRuns one base ∧ LockCountersBounded base ∧ symbolEnds one base = false := by
  unfold SampleRuns LockCountersBounded
  decide +kernel

theorem test_witness_SmpEventOrder :
    SampleRuns minusQuarter m14 ∧ LockCountersBounded m14 ∧ dropsLock minusQuarter m14 = true ∧
      SampleRuns one m16 ∧ LockCountersBounded m16 ∧ symbolEnds one m16 = true := by
  unfold SampleRuns LockCountersBounded
  decide +kernel

theorem test_witness_SmpFrame :
    SampleRuns one m18 ∧ LockCountersBounded m18 ∧ holdsLock one m18 = false ∧
      m18.demod.locked = false ∧ SampleRuns minusQuarter m14 ∧ LockCountersBounded m14 ∧
      symbolEnds minusQuarter m14 = false ∧ m14.demod.locked = true ∧ holdsLock one m16 = true := by
  unfold SampleRuns LockCountersBounded
  decide +kernel

theorem test_witness_UnlockedSampleForcesSync1 :
    SampleRuns one (inData .b1600 .two 2815#12) ∧
      (stateOf (exec (.smp one) (inData .b1600 .two 2815#12))).map
        (fun t => (t.demod.locked, t.response.events)) = some (false, []) := by
  unfold SampleRuns
  decide +kernel

theorem test_witness_DiagnosticsAreNotRead :
    SameButDiagnostics m18 { m18 with demod := { m18.demod with sampleCount := 5 } } ∧
      (∀ n, Instr.smp one ≠ .rdcsr n) ∧ (stateOf (exec (.smp one) m18)).isSome = true :=
  ⟨rfl, fun _ h => by simp at h, by decide +kernel⟩

/-- No match, a match at normal and one at inverted polarity. -/
theorem test_witness_SymInSync1 :
    (beforeSync 2#64).configured = true ∧ (beforeSync 2#64).frame.state = .sync1 ∧
      accepts (bufferAfter (beforeSync 2#64) 0#2) = false ∧
      accepts (~~~(bufferAfter (beforeSync 2#64) 0#2)) = false ∧
      accepts (bufferAfter (beforeSync 0x4386536355553C79#64) 0#2) = true ∧
      accepts (bufferAfter (beforeSync 0xBC79AC9CAAAAC386#64) 3#2) = false ∧
      accepts (~~~(bufferAfter (beforeSync 0xBC79AC9CAAAAC386#64) 3#2)) = true := by
  decide +kernel

theorem test_witness_OnePolarityAccepts : accepts 0x870CA6C6AAAD78F3#64 = true := by
  decide +kernel

theorem test_witness_SymInFiwCollects :
    (inFiw 0#6 0#32).configured = true ∧ (inFiw 46#6 0#32).frame.state = .fiw ∧
      (inFiw 15#6 0#32).frame.fiwCount.toNat < 47 ∧ (inFiw 16#6 0#32).frame.fiwCount.toNat < 47 ∧
      (inFiw 46#6 0#32).frame.fiwCount.toNat < 47 := by decide

/-- The words of the vectors F1, F2 and F4 before their last bit. -/
theorem test_witness_SymInFiwChecks :
    (inFiw 47#6 0#32).frame.fiwCount.toNat = 47 ∧
      fixErrors (fiwAfter (inFiw 47#6 0x76C0065A#32) 0#2) = none ∧
      (fixErrors (fiwAfter (inFiw 47#6 0x5B000656#32) 0#2)).map
        (fun r => fiwChecksumPasses r.1) = some false ∧
      (fixErrors (fiwAfter (inFiw 47#6 0x76D00754#32) 3#2)).map
        (fun r => fiwChecksumPasses r.1) = some true := by decide +kernel

theorem test_witness_SymInSync2 :
    (inSync2 .b1600 0#7).configured = true ∧ (inSync2 .b1600 38#7).frame.state = .sync2 ∧
      (inSync2 .b1600 38#7).frame.sync2Count.toNat + 1 < sync2Bound (inSync2 .b1600 38#7) ∧
      (inSync2 .b1600 39#7).frame.sync2Count.toNat + 1 = sync2Bound (inSync2 .b1600 39#7) ∧
      (inSync2 .b3200 79#7).frame.sync2Count.toNat + 1 = sync2Bound (inSync2 .b3200 79#7) := by
  decide

theorem test_witness_SymInDataCollects :
    (inData .b3200 .four 2815#12).configured = true ∧
      (inData .b3200 .four 2815#12).frame.state = .data ∧
      (inData .b3200 .four 2815#12).coll.dataBitCounter.toNat ≤ 2815 ∧
      Memory.wf (inData .b3200 .four 2815#12).coll.pb = true ∧
      IdleCountsBounded (inData .b3200 .four 2815#12) ∧
      IdleCountsBounded (inData .b1600 .two 255#12) := by
  unfold IdleCountsBounded
  refine ⟨by decide, by decide, by decide, by decide, ⟨?_, fun _ => ⟨?_, by decide, by decide⟩⟩,
    ⟨?_, fun _ => ⟨?_, by decide, by decide⟩⟩⟩ <;> intro p <;> cases p <;> decide

/-- The last symbol of a full frame, and one that leaves the frame going. -/
theorem test_witness_SymInDataEndsFrame :
    (let s := inData .b1600 .two 2815#12
     { s with frame := { s.frame with dataCount := 2815#13 } }).frame.dataCount.toNat + 1 =
        dataBound (inData .b1600 .two 2815#12) ∧
      (inData .b1600 .two 0#12).frame.dataCount.toNat + 1 < dataBound (inData .b1600 .two 0#12) ∧
      (stateOf (exec (.sym 0#2) (inData .b1600 .two 0#12))).map
        (fun t => activeIdle .b1600 .two t.coll.idleCount) = some false ∧
      (stateOf (exec (.sym 0#2) (inData .b1600 .two 255#12))).map
        (fun t => activeIdle .b1600 .two t.coll.idleCount) = some true := by decide +kernel

/-- The premises of the collector's clause, at the last counter value. -/
theorem test_witness_SymInDataEndsFrame_collector :
    let s := inData .b3200 .four 2815#12
    s.configured = true ∧ s.frame.state = .data ∧ s.coll.dataBitCounter.toNat ≤ 2815 ∧
      s.frame.dataCount.toNat < dataBound s ∧ Memory.wf s.coll.pb = true ∧
      IdleCountsBounded s := by
  unfold IdleCountsBounded
  refine ⟨by decide, by decide, by decide, by decide, by decide, ?_,
    fun _ => ⟨?_, by decide, by decide⟩⟩ <;> intro p <;> cases p <;> decide

theorem test_witness_MissingWordStops :
    2815 < (inData .b1600 .two 2816#12).coll.dataBitCounter.toNat ∧
      2815 < (inData .b1600 .two 4095#12).coll.dataBitCounter.toNat ∧
      (inData .b1600 .two 2816#12).configured = true ∧
      (inData .b1600 .two 2816#12).frame.state = .data := by decide

/-- A configured state in each frame state: the premises of `SymFrame`, `SymMakesATransition` and
`SymIsSymbolRowThenStateRow`. -/
theorem test_witness_SymFrame :
    base.configured = true ∧ base.frame.state = .sync1 ∧ (inFiw 47#6 0#32).configured = true ∧
      (inFiw 47#6 0#32).frame.state ≠ .sync1 ∧ (inSync2 .b1600 39#7).configured = true ∧
      ((inSync2 .b1600 38#7).frame.sync2Count + 1).toNat ≠ sync2Bound (inSync2 .b1600 38#7) ∧
      (inData .b1600 .two 2815#12).configured = true ∧
      (inData .b1600 .two 2815#12).coll.dataBitCounter.toNat ≤ 2815 ∧
      Memory.wf (inData .b1600 .two 2815#12).coll.pb = true ∧
      stepWrites (inData .b1600 .two 2815#12) .b = false := by decide

theorem test_witness_SymMakesATransition :
    (inData .b3200 .two 2815#12).configured = true ∧
      (inData .b3200 .two 2815#12).frame.state = .data ∧
      (inData .b3200 .two 2815#12).coll.dataBitCounter.toNat ≤ 2815 := by decide

theorem test_witness_InvertedSymbolsGiveTheTwin :
    (stateOf (exec (.sym 0#2) (beforeSync 0x4386536355553C79#64))).isSome = true := by
  decide +kernel

/-- RST, CFG, a data symbol and the end of SYNC2 each change a word. -/
theorem test_witness_PhaseBufferWriters :
    let full : Collector := { Collector.reset with pb := [(0, 1#32)] }
    [(Instr.rst, { base with coll := full }), (.cfg 1#32, { base with coll := full }),
      (.sym 0#2, { inSync2 .b1600 39#7 with coll := full }),
      (.sym 3#2, inData .b1600 .two 0#12)].all (fun c => isHostCommand c.1 &&
        (stateOf (exec c.1 c.2)).any (fun t => pbRead .a 0#7 t != pbRead .a 0#7 c.2)) = true := by
  decide +kernel

theorem test_witness_ThirtyTwoInsertionsFillAWord :
    (List.replicate 32 true).length = 32 ∧
      (List.replicate 32 true).foldl shiftInTop 0#32 = 0xFFFFFFFF#32 := by decide

theorem test_witness_LockPatternIsAlternation :
    (List.replicate 12 [0#2, 3#2]).flatten.length = 24 ∧
      (List.replicate 24 (3#2 : Symbol)).length = 24 ∧
      lockPattern ((List.replicate 12 [0#2, 3#2]).flatten.foldl
        (fun x q => (x <<< 2) ||| (q ^^^ 1).setWidth 64) 5#64) = true := by decide +kernel

theorem test_witness_SyncCodeRowsRecordTheMode :
    (Instr.syncCode870C 0x870C#16, Baud.b1600, Levels.two) ∈ modeRows 0x870C#16 ∧
      (Instr.syncCodeUnknown 0x1234#16, Baud.b1600, Levels.two) ∈ modeRows 0x1234#16 := by decide

theorem test_witness_SyncMatchUsesItsRow :
    (beforeSync 0x4386536355553C79#64).configured = true ∧
      (beforeSync 0x4386536355553C79#64).frame.state = .sync1 ∧
      ∃ pol b, FoundSync (bufferAfter (beforeSync 0x4386536355553C79#64) 0#2) pol b :=
  ⟨rfl, rfl, .normal, _, Or.inl ⟨by decide +kernel, rfl, rfl⟩⟩

theorem test_witness_SymbolRowsDecodeFourBits :
    (Instr.symbol3, (⟨true, false, false, 2⟩ : SymbolBits), (⟨false, false, false, 2⟩ : SymbolBits))
      ∈ symbolRows := by decide

theorem test_witness_SymIsSymbolRowThenStateRow :
    base.configured = true ∧ (inData .b3200 .four 2815#12).configured = true ∧
      (inData .b3200 .four 2815#12).coll.dataBitCounter.toNat ≤ 2815 := by decide

/-- The reset symbol input is that of symbol 0 for each handler; and the last counter value, the
two SYNC2 bounds. -/
theorem test_witness_StateRowsRunTheirHandler :
    (∀ st, InputIsSymbol st 0#2 (inData .b3200 .four 2815#12)) ∧
    (inData .b3200 .four 2815#12).coll.dataBitCounter.toNat ≤ 2815 ∧
      Memory.wf (inData .b3200 .four 2815#12).coll.pb = true ∧
      ((inSync2 .b1600 39#7).frame.sync2Count + 1).toNat = sync2Bound (inSync2 .b1600 39#7) ∧
      ((inSync2 .b3200 39#7).frame.sync2Count + 1).toNat ≠ sync2Bound (inSync2 .b3200 39#7) := by
  refine ⟨?_, by decide⟩
  intro st
  cases st <;> unfold InputIsSymbol <;> decide

theorem test_witness_MemoryStaysCanonical :
    Memory.wf (inData .b1600 .two 2815#12).coll.pb = true ∧
      (stateOf (step { inData .b1600 .two 2815#12 with
        pending := [.command 0x400000003#36] })).isSome = true := by decide +kernel

/-- The invariant holds in DATA, in the middle of a frame, with a command to come. -/
theorem test_witness_StepKeepsWellRun :
    let s := inData .b1600 .two 100#12
    WellRun { s with
      frame := { s.frame with dataCount := 100#13 }
      sync := { s.sync with syncCode := 0x870C#32 }
      pending := [.command 0x400000003#36] } := by
  constructor
  · unfold CommandsOnly; decide
  · decide
  · unfold RateIffConfigured; decide
  · unfold PhaseInPeriod; decide
  · unfold FiwInProgress; decide
  · unfold Sync2InProgress; decide
  · unfold DataInProgress symbolsCollected; decide
  · unfold BaudsAgree; decide
  · unfold ModeFollowsCode; decide
  · unfold LockCountersBounded; decide
  · unfold LockBufferIdle; decide
  · unfold CountersLegal; decide
  · refine ⟨?_, fun _ => ⟨?_, by decide, by decide⟩⟩ <;> intro p <;> cases p <;> decide

end Sys2Proof.Tests
end

section
/-! PROOFS. SYM in state SYNC1 (`45_state_machine.md` R242): the machine's test, match and mode
decode are the closed expressions of `Safety`, and the two outcomes of the handler are followed
through the command. -/

namespace Sys2Proof.Proofs.SymSync1

open Sys2Proof.Machine Sys2Proof.Safety

/-! ### The synchronizer's functions, in the terms of the statements -/

/-- The printed form of the test is the machine's (`43_synchronizer.md` R201, R202). -/
theorem accepts_eq_acceptsSync (b : BitVec 64) : accepts b = acceptsSync b := Bool.decide_and _ _

/-- The bit that enters the buffer is the raw symbol's (`43_synchronizer.md` R200). -/
theorem bufferAfter_eq_shiftInBottom (s : State) (q : Symbol) :
    bufferAfter s q = shiftInBottom s.sync.syncBuf (symbolSyncBit q) := by
  simp [bufferAfter, shiftInBottom, symbolSyncBit]

/-- The polarity and the buffer value found are the machine's match (`43_synchronizer.md` R203). -/
theorem foundSync_iff_matchSync (buffer : BitVec 64) (pol : Polarity) (b : BitVec 64) :
    FoundSync buffer pol b ↔ matchSync buffer = some (pol, b) := by
  unfold FoundSync
  simp only [accepts_eq_acceptsSync]
  rcases matchSync_cases buffer with ⟨hm, ha⟩ | ⟨hm, ha, hna⟩ | ⟨hm, ha, hna⟩
  · simp [hm, ha, eq_comm (a := pol), eq_comm (a := b)]
  · simp [hm, ha, hna, eq_comm (a := pol), eq_comm (a := b)]
  · simp [hm, ha, hna]

/-- A row is selected within distance 3 (`30_encoding.md` R94). -/
theorem selects_eq_decide (code row : BitVec 16) :
    selects code row = decide (popcount (code ^^^ row) ≤ 3) := rfl

/-- The table's rows, tried in the order printed, give the machine's mode, and a row was selected
if the machine knows the code (`30_encoding.md` R94, `43_synchronizer.md` R205, R206). -/
theorem tableMode_eq_modeOfCode (code : BitVec 16) :
    tableMode code = ((modeOfCode code).1, (modeOfCode code).2, (knownMode code).isSome) := by
  unfold tableMode
  split_ifs with h1 h2 h3 h4 h5 <;>
    simp [modeOfCode, knownMode, modeTable, selects_eq_decide, Config.code870C,
      Config.codeB068, Config.code7B18, Config.codeDEA0, Config.code4C7C, *]

/-! ### The command -/

/-- SYM on a configured block runs the symbol handler and answers the state it ends in
(`46_host_commands.md` R274). -/
theorem exec_sym_of_configured {q : Symbol} {s : State} (hc : s.configured = true) :
    exec (.sym q) s =
      complete (symbolHandler q (beginResponse s)) (fun t => setValue (symbolValueBits t) t) := by
  change execSym q s = _
  unfold execSym
  exact if_neg (by simp [hc])

/-- In SYNC1 the symbol handler is SYNC1's (`45_state_machine.md` R240). -/
theorem symbolHandler_sync1 {q : Symbol} {s : State} (hs : s.frame.state = .sync1) :
    symbolHandler q s = .ok (handleSync1 (decodeSymbol s.sync.polarity q) s) := by
  unfold symbolHandler
  rw [hs]
  rfl

/-- SYM in SYNC1 answers what SYNC1's handler leaves. -/
theorem exec_sym_sync1 {q : Symbol} {s : State} (hc : s.configured = true)
    (hs : s.frame.state = .sync1) :
    exec (.sym q) s =
      complete (.ok (handleSync1 (decodeSymbol s.sync.polarity q) (beginResponse s)))
        (fun t => setValue (symbolValueBits t) t) := by
  rw [exec_sym_of_configured hc, symbolHandler_sync1 (s := beginResponse s) hs]
  rfl

/-- SYNC1 writes no register outside the synchronizer and the state machine. -/
theorem handleSync1_frame (d : SymbolBits) (s : State) :
    (handleSync1 d s).demod = s.demod ∧ (handleSync1 d s).coll = s.coll ∧
      SameConfiguration s (handleSync1 d s) := by
  unfold SameConfiguration
  rcases handleSync1_cases d s with ⟨pol, b, -, h⟩ | ⟨-, h⟩ <;> simp [h, recordMatch]

/-- SYNC1 without a match writes `sync_buf` only. -/
theorem handleSync1_of_no_match {d : SymbolBits} {s : State}
    (h : matchSync (shiftInBottom s.sync.syncBuf d.syncBit) = none) :
    handleSync1 d s = shiftSyncBuf d.syncBit s := by
  rcases handleSync1_cases d s with ⟨pol, b, hm, -⟩ | ⟨-, he⟩
  · simp [h] at hm
  · exact he

/-- SYNC1 with a match records it, emits SYNC_FOUND and starts the FIW. -/
theorem handleSync1_of_match {d : SymbolBits} {s : State} {pol : Polarity} {b : BitVec 64}
    (h : matchSync (shiftInBottom s.sync.syncBuf d.syncBit) = some (pol, b)) :
    handleSync1 d s =
      startFiw (emit (syncFoundEvent b (recordMatch pol b (shiftSyncBuf d.syncBit s)))
        (recordMatch pol b (shiftSyncBuf d.syncBit s))) := by
  rcases handleSync1_cases d s with ⟨pol', b', hm, he⟩ | ⟨hm, -⟩
  · obtain ⟨rfl, rfl⟩ : pol = pol' ∧ b = b' := by simpa [h] using hm
    exact he
  · simp [h] at hm

/-- Settles O37: the match of the machine is `FoundSync`'s, so each outcome of SYNC1's handler is
the statement's, register by register. -/
theorem symInSync1 : Obligations.SymInSync1 := by
  intro q s hc hs
  obtain ⟨hdemod, hcoll, hconf⟩ :=
    handleSync1_frame (decodeSymbol s.sync.polarity q) (beginResponse s)
  have hbuf : shiftInBottom (beginResponse s).sync.syncBuf
      (decodeSymbol s.sync.polarity q).syncBit = bufferAfter s q :=
    (bufferAfter_eq_shiftInBottom s q).symm
  rw [exec_sym_sync1 hc hs]
  refine ⟨_, rfl, hdemod, hcoll, hconf, fun hno => ?_, fun pol b hfound => ?_⟩
  · have hmatch : matchSync (bufferAfter s q) = none :=
      Option.eq_none_iff_forall_ne_some.2 fun r hr =>
        hno r.1 r.2 ((foundSync_iff_matchSync ..).2 hr)
    rw [← hbuf] at hmatch
    rw [handleSync1_of_no_match hmatch, ← hbuf]
    simp [symbolValueBits, hs, frameStateCode, Response.empty, okResponse]
  · have hmatch := (foundSync_iff_matchSync ..).1 hfound
    rw [← hbuf] at hmatch
    rw [handleSync1_of_match hmatch, ← hbuf]
    simp [symbolValueBits, frameStateCode, Response.empty, okResponse, recordMatch, syncFoundEvent,
      tableMode_eq_modeOfCode, codeHigh]

end Sys2Proof.Proofs.SymSync1
end

section
/-! PROOFS. The host commands RST and BCHENC (`46_host_commands.md` R272, R276): each runs one
shared operation and begins a response, so its statement is read off that operation's laws and the
layout of the codeword. -/

namespace Sys2Proof.Proofs.HostCommands

open Sys2Proof.Machine Sys2Proof.Safety

/-! ### RST -/

/-- RST resets the registers and begins a response (`46_host_commands.md` R272). -/
theorem exec_rst (s : State) : exec .rst s = .next (beginResponse (resetRegisters s)) := rfl

/-- The collector's reset memory lists no word, so each reads as 0 (`10_state.md` R49). -/
theorem pbRead_of_coll_reset {s : State} (h : s.coll = Collector.reset) (p : Phase)
    (i : BitVec 7) : pbRead p i s = 0#32 := by
  unfold pbRead
  rw [h]
  rfl

/-- The four sub-blocks at their reset values are all that the table of `10_state.md` R49 asks. -/
theorem atReset_of_subblocks {s : State} (hdemod : s.demod = Demod.reset)
    (hsync : s.sync = Sync.reset) (hframe : s.frame = Frame.reset)
    (hcoll : s.coll = Collector.reset) : AtReset s := by
  refine ⟨hdemod, hsync, hframe, pbRead_of_coll_reset hcoll, ?_⟩
  rw [hcoll]
  exact ⟨rfl, rfl, rfl⟩

/-- Settles O9: RST is `resetRegisters`, which resets the four sub-blocks and leaves the
configuration. -/
theorem rstResets : Obligations.RstResets := by
  intro s
  have hconf : SameConfiguration s (beginResponse (resetRegisters s)) := by
    simp [SameConfiguration]
  have hreset : AtReset (beginResponse (resetRegisters s)) :=
    atReset_of_subblocks (by simp) (by simp) (by simp) (by simp)
  exact ⟨_, exec_rst s, hconf, hreset, rfl⟩

/-! ### The layout of a codeword (`41_bch.md` R124) -/

/-- The data are the word's low 21 bits. -/
theorem bchEncode_data (d : BitVec 21) : (bchEncode d).extractLsb' 0 21 = d :=
  calc (bchEncode d).extractLsb' 0 21
    _ = ((bchParity d).reverse ++ d).extractLsb' 0 21 :=
      BitVec.extractLsb'_append_eq_of_add_le (by decide)
    _ = d := BitVec.extractLsb'_append_eq_right

/-- The word's bits above the data: the parity bits in reverse order, then a zero. -/
theorem bchEncode_above_data (d : BitVec 21) {i : Nat} (hi : 21 ≤ i) :
    (bchEncode d).getLsbD i = (bchParity d).reverse.getLsbD (i - 21) := by
  unfold bchEncode
  rw [BitVec.getLsbD_append, BitVec.getLsbD_append, if_neg (Nat.not_lt.2 hi)]
  split_ifs with h
  · rfl
  · rw [BitVec.getLsbD_zero, BitVec.getLsbD_of_ge _ _ (by omega)]

/-- Parity bit `j` is word bit `30 - j`. -/
theorem bchEncode_parity (d : BitVec 21) {j : Nat} (hj : j < 10) :
    (bchEncode d).getLsbD (30 - j) = (bchParity d).getLsbD j := by
  have hplace : 30 - j - 21 < 10 := by omega
  have hback : 10 - 1 - (30 - j - 21) = j := by omega
  rw [bchEncode_above_data d (by omega), BitVec.getLsbD_reverse, BitVec.getMsbD_eq_getLsbD, hback]
  simp [hplace]

/-- Bit 31 is zero. -/
theorem bchEncode_top (d : BitVec 21) : (bchEncode d).getLsbD 31 = false := by
  rw [bchEncode_above_data d (by decide), BitVec.getLsbD_of_ge _ _ (by decide)]

/-! ### BCHENC -/

/-- BCHENC answers the codeword of its data, configured or not (`46_host_commands.md` R276). -/
theorem exec_bchenc (d : BitVec 21) (s : State) :
    exec (.bchenc d) s = .next (setValue (bchEncode d) (beginResponse s)) := rfl

/-- Of BCHENC's payload only the low 21 bits are read: bits 31:21 are ignored
(`46_host_commands.md` R276). -/
theorem decode_bchenc (v : Word) :
    decode (.command (0x6#4 ++ v)) = .bchenc (v.extractLsb' 0 21) := by
  have hop : (0x6#4 ++ v).extractLsb' 32 4 = 0x6#4 := BitVec.extractLsb'_append_eq_left
  have hdata : (0x6#4 ++ v).extractLsb' 0 21 = v.extractLsb' 0 21 :=
    BitVec.extractLsb'_append_eq_of_add_le (by decide)
  change decodeCommand (0x6#4 ++ v) = _
  unfold decodeCommand
  rw [hop]
  exact congrArg Instr.bchenc hdata

/-- Settles O15: the value answered is the codeword of the data, whose layout is that of
`41_bch.md` R124. -/
theorem bchencResponse : Obligations.BchencResponse := by
  refine ⟨fun d s => ?_, decode_bchenc⟩
  have hsame : SameRegisters s (setValue (bchEncode d) (beginResponse s)) := by
    simp [SameRegisters]
  exact ⟨_, exec_bchenc d s, hsame, rfl, bchEncode_data d, fun _ hj => bchEncode_parity d hj,
    bchEncode_top d⟩

end Sys2Proof.Proofs.HostCommands
end

section
/-! PROOFS. The decoder and the encoder (`30_encoding.md` R91 to R108): a command word's fields,
the uniqueness of the mode-table row near a code, and the two round trips. -/

namespace Sys2Proof.Proofs.Encoding

open Sys2Proof.Machine Sys2Proof.Safety Sys2Proof.Proofs.SymSync1

/-! ### The fields of a command word (`30_encoding.md` R101, R102) -/

@[simp] theorem opcode_append (op : BitVec 4) (v : Word) :
    (op ++ v).extractLsb' 32 4 = op :=
  BitVec.extractLsb'_append_eq_left

@[simp] theorem payload_append (op : BitVec 4) (v : Word) :
    (op ++ v).extractLsb' 0 32 = v :=
  BitVec.extractLsb'_append_eq_right

theorem field_append (op : BitVec 4) (v : Word) {start len : Nat} (h : start + len ≤ 32) :
    (op ++ v).extractLsb' start len = v.extractLsb' start len :=
  BitVec.extractLsb'_append_eq_of_add_le h

@[simp] theorem phaseBits_phaseOfBits : ∀ b : BitVec 2, phaseBits (phaseOfBits b) = b := by decide

@[simp] theorem phaseOfBits_phaseBits (p : Phase) : phaseOfBits (phaseBits p) = p := by
  cases p <;> rfl

/-- Settles O2: the opcode is the word's upper field, and each operand a field of its payload. -/
theorem opcodeMapDecodes : Obligations.OpcodeMapDecodes := by
  intro v
  simp [decode, decodeCommand, field_append]

/-- Settles O1: the decoder, evaluated on the written-out words. -/
theorem writtenOutWordsDecode : Obligations.WrittenOutWordsDecode := by
  unfold Obligations.WrittenOutWordsDecode
  decide

/-! ### The row near a code (`30_encoding.md` R94) -/

/-- The triangle inequality of the Hamming distance, for any number of low bits. -/
theorem onesBelow_xor_le {w : Nat} (a b : BitVec w) (n : Nat) :
    onesBelow (a ^^^ b) n ≤ onesBelow a n + onesBelow b n := by
  induction n with
  | zero => exact Nat.zero_le _
  | succ n ih =>
    simp only [onesBelow, BitVec.getLsbD_xor]
    cases a.getLsbD n <;> cases b.getLsbD n <;> simp <;> omega

theorem popcount_xor_le {w : Nat} (a b : BitVec w) :
    popcount (a ^^^ b) ≤ popcount a + popcount b :=
  onesBelow_xor_le a b w

/-- The distance of two words is at most the sum of their distances to a third. -/
theorem hamming_triangle {w : Nat} (a b c : BitVec w) :
    popcount (a ^^^ b) ≤ popcount (c ^^^ a) + popcount (c ^^^ b) := by
  have h : a ^^^ b = (c ^^^ a) ^^^ (c ^^^ b) := by
    rw [BitVec.xor_comm c a, BitVec.xor_assoc, ← BitVec.xor_assoc c c b, BitVec.xor_self,
      BitVec.zero_xor]
  rw [h]
  exact popcount_xor_le _ _

/-- Two rows of the mode table are more than 6 apart. -/
theorem modeTable_spread : ∀ r ∈ modeTable, ∀ r' ∈ modeTable,
    popcount (r.1 ^^^ r'.1) ≤ 6 → r = r' := by
  decide

/-- So a code is within distance 3 of one row at most. -/
theorem modeTable_row_unique (c : BitVec 16) {r r' : BitVec 16 × Baud × Levels}
    (hr : r ∈ modeTable) (hr' : r' ∈ modeTable) (h : selects c r.1 = true)
    (h' : selects c r'.1 = true) : r = r' := by
  rw [selects_eq_decide, decide_eq_true_eq] at h h'
  have := hamming_triangle r.1 r'.1 c
  exact modeTable_spread r hr r' hr' (by omega)

/-- A code that selects one row does not select another. -/
theorem not_selects_of_ne {c : BitVec 16} {r r' : BitVec 16 × Baud × Levels}
    (h : selects c r.1 = true) (hr : r ∈ modeTable) (hr' : r' ∈ modeTable) (hne : r' ≠ r) :
    selects c r'.1 = false := by
  by_contra hs
  exact hne (modeTable_row_unique c hr' hr (by simpa using hs) h)

/-- Settles O5: the rows are too far apart for a code near two of them; the printed table and the
machine's agree by `tableMode_eq_modeOfCode`. -/
theorem syncCodeRowUnique : Obligations.SyncCodeRowUnique := by
  refine ⟨fun c r r' hr hr' h h' => ?_, fun c => ?_⟩
  · exact modeTable_row_unique c hr hr' (by simpa [selects_eq_decide] using h)
      (by simpa [selects_eq_decide] using h')
  · simp [tableMode_eq_modeOfCode]

/-! ### The round trips -/

/-- A code goes to the row it selects. -/
theorem decodeSyncCode_of_selects (c : BitVec 16) :
    (selects c Config.code870C = true → decodeSyncCode c = .syncCode870C c) ∧
    (selects c Config.codeB068 = true → decodeSyncCode c = .syncCodeB068 c) ∧
    (selects c Config.code7B18 = true → decodeSyncCode c = .syncCode7B18 c) ∧
    (selects c Config.codeDEA0 = true → decodeSyncCode c = .syncCodeDEA0 c) ∧
    (selects c Config.code4C7C = true → decodeSyncCode c = .syncCode4C7C c) := by
  have other : ∀ r ∈ modeTable, selects c r.1 = true → ∀ r' ∈ modeTable, r' ≠ r →
      selects c r'.1 = false := fun r hr h r' hr' hne => not_selects_of_ne h hr hr' hne
  simp only [modeTable, List.forall_mem_cons, List.not_mem_nil, false_imp_iff, implies_true,
    and_true] at other
  obtain ⟨h1, h2, h3, h4, h5⟩ := other
  unfold decodeSyncCode
  refine ⟨fun h => by simp [h], fun h => ?_, fun h => ?_, fun h => ?_, fun h => ?_⟩
  · obtain ⟨n1, -⟩ := h2 h
    simp [h, n1 (by decide)]
  · obtain ⟨n1, n2, -⟩ := h3 h
    simp [h, n1 (by decide), n2 (by decide)]
  · obtain ⟨n1, n2, n3, -⟩ := h4 h
    simp [h, n1 (by decide), n2 (by decide), n3 (by decide)]
  · obtain ⟨n1, n2, n3, n4, -⟩ := h5 h
    simp [h, n1 (by decide), n2 (by decide), n3 (by decide), n4 (by decide)]

/-- A code near no row goes to the default. -/
theorem decodeSyncCode_of_selectsNone {c : BitVec 16} (h : selectsNone c = true) :
    decodeSyncCode c = .syncCodeUnknown c := by
  simp only [selectsNone, Bool.and_eq_true, Bool.not_eq_true'] at h
  simp [decodeSyncCode, h]

theorem zeros_append_field (n : Nat) {k : Nat} (v : BitVec k) :
    (0#n ++ v).extractLsb' 0 k = v :=
  BitVec.extractLsb'_append_eq_right

/-- Settles O3: a command's operands are the fields the encoder put in place; a sync code goes to
the row it is well formed for, because no other row is near it. -/
theorem decodeOfEncode : Obligations.DecodeOfEncode := by
  intro i hi
  cases i with
  | syncCode870C c =>
    obtain ⟨hrow, -⟩ := decodeSyncCode_of_selects c
    exact hrow hi
  | syncCodeB068 c =>
    obtain ⟨-, hrow, -⟩ := decodeSyncCode_of_selects c
    exact hrow hi
  | syncCode7B18 c =>
    obtain ⟨-, -, hrow, -⟩ := decodeSyncCode_of_selects c
    exact hrow hi
  | syncCodeDEA0 c =>
    obtain ⟨-, -, -, hrow, -⟩ := decodeSyncCode_of_selects c
    exact hrow hi
  | syncCode4C7C c =>
    obtain ⟨-, -, -, -, hrow⟩ := decodeSyncCode_of_selects c
    exact hrow hi
  | syncCodeUnknown c => exact decodeSyncCode_of_selectsNone hi
  | symbol0 | symbol1 | symbol2 | symbol3 => rfl
  | stateSync1 | stateFiw | stateSync2 | stateData => rfl
  | rdpb p k =>
    have hphase : (0#23 ++ (phaseBits p ++ k)).extractLsb' 7 2 = phaseBits p := by
      rw [BitVec.extractLsb'_append_eq_of_add_le (by decide)]
      exact BitVec.extractLsb'_append_eq_left
    have hindex : (0#23 ++ (phaseBits p ++ k)).extractLsb' 0 7 = k := by
      rw [BitVec.extractLsb'_append_eq_of_add_le (by decide)]
      exact BitVec.extractLsb'_append_eq_right
    simp [decode, encode, commandWord, decodeCommand, field_append, hphase, hindex]
  | cfg | rst | smp | sym | bchfix | bchenc | rdcsr | illegal0 | illegal9 | illegalA | illegalB
  | illegalC | illegalD | illegalE | illegalF =>
    simp [decode, encode, commandWord, decodeCommand, field_append,
      zeros_append_field 30 (k := 2), zeros_append_field 11 (k := 21),
      zeros_append_field 24 (k := 8)]

/-- Every word decodes to a well-formed instruction: a sync code by the row that selects it. -/
theorem decode_wellFormed (w : PortWord) : (decode w).wellFormed = true := by
  cases w with
  | command w =>
    simp only [decode, decodeCommand]
    split <;> rfl
  | syncCode c =>
    simp only [decode, decodeSyncCode]
    split_ifs <;> simp_all [Instr.wellFormed, selectsNone]
  | symbol q =>
    simp only [decode, decodeSymbolRow]
    split_ifs <;> rfl
  | stateCode c =>
    simp only [decode, decodeStateCode]
    split_ifs <;> rfl

/-- Zeros above a low field are the word with every other bit masked. -/
theorem zeros_append_low (n : Nat) {m : Nat} (v : BitVec (m + n)) :
    0#m ++ v.extractLsb' 0 n = v &&& (BitVec.ofNat (m + n) (2 ^ n - 1)) := by
  apply BitVec.eq_of_getLsbD_eq
  intro k hk
  have hmask : (BitVec.ofNat (m + n) (2 ^ n - 1)).getLsbD k = decide (k < n) := by
    rw [BitVec.getLsbD_ofNat, Nat.testBit_two_pow_sub_one]
    simp [hk]
  rw [BitVec.getLsbD_append, BitVec.getLsbD_and, hmask]
  by_cases h : k < n <;> simp [h]

/-- The two fields of RDPB together are the payload's low 9 bits. -/
theorem phase_append_index (v : Word) :
    v.extractLsb' 7 2 ++ v.extractLsb' 0 7 = v.extractLsb' 0 9 := by
  apply BitVec.eq_of_getLsbD_eq
  intro k hk
  rw [BitVec.getLsbD_append]
  by_cases h : k < 7
  · simp [h, hk]
  · have h2 : k - 7 < 2 := by omega
    have h7 : 7 + (k - 7) = k := by omega
    simp [h, hk, h2, h7]

theorem opcode_cases : ∀ op : BitVec 4,
    op ∈ [0x0#4, 0x1#4, 0x2#4, 0x3#4, 0x4#4, 0x5#4, 0x6#4, 0x7#4, 0x8#4, 0x9#4, 0xA#4, 0xB#4,
      0xC#4, 0xD#4, 0xE#4, 0xF#4] := by
  decide

/-- Encoding after decoding writes the listed payload bits back and zeros elsewhere. -/
theorem encode_decode_command (op : BitVec 4) (v : Word) :
    encode (decode (.command (op ++ v))) = .command (op ++ (v &&& listedPayload op)) := by
  have hop := opcode_cases op
  simp only [List.mem_cons, List.not_mem_nil, or_false] at hop
  have all : v &&& 0xFFFFFFFF#32 = v := BitVec.and_allOnes
  rcases hop with rfl | rfl | rfl | rfl | rfl | rfl | rfl | rfl | rfl | rfl | rfl | rfl | rfl |
      rfl | rfl | rfl <;>
    simp [decode, decodeCommand, field_append, encode, commandWord, listedPayload, all,
      phase_append_index, zeros_append_low 2 (m := 30), zeros_append_low 21 (m := 11),
      zeros_append_low 9 (m := 23), zeros_append_low 8 (m := 24)]

/-- Settles O4: decoding drops nothing but the payload bits that are not listed. -/
theorem encodeOfDecode : Obligations.EncodeOfDecode := by
  refine ⟨decode_wellFormed, encode_decode_command, fun c => ?_, fun q => ?_, fun c => ?_⟩
  · simp only [decode, decodeSyncCode]
    split_ifs <;> rfl
  · revert q
    decide
  · revert c
    decide

end Sys2Proof.Proofs.Encoding
end

section
/-! PROOFS. The BCH(31,21,5) code (`41_bch.md`): the field laws, the encoder as a linear map, the
syndromes of codewords, and the corrector by its error locator. -/

namespace Sys2Proof.Proofs.Bch

open Sys2Proof.Machine Sys2Proof.Safety Sys2Proof.Proofs.HostCommands

/-! ### Exclusive-or -/

theorem xor_left_comm {n : Nat} (a b c : BitVec n) : a ^^^ (b ^^^ c) = b ^^^ (a ^^^ c) := by
  rw [← BitVec.xor_assoc, BitVec.xor_comm a b, BitVec.xor_assoc]

/-! ### The field (`41_bch.md` R121) -/

theorem indexOf_alphaTo_mod (i : Nat) : indexOf (alphaTo i) = some (i % 31) := by
  have h := indexOf_alphaTo ⟨i % 31, Nat.mod_lt _ (by decide)⟩
  rwa [alphaTo_mod] at h

theorem alphaTo_ne_zero (i : Nat) : alphaTo i ≠ 0#5 := by
  intro h
  have := indexOf_alphaTo_mod i
  rw [h] at this
  exact absurd this (by simp [indexOf])

theorem alphaTo_inj {i j : Nat} : alphaTo i = alphaTo j ↔ i % 31 = j % 31 := by
  refine ⟨fun h => ?_, fun h => ?_⟩
  · exact Option.some.inj ((indexOf_alphaTo_mod i).symm.trans (h ▸ indexOf_alphaTo_mod j))
  · rw [← alphaTo_mod i, h, alphaTo_mod]

/-- Multiplication adds exponents. -/
theorem gmul_alphaTo (i j : Nat) : gmul (alphaTo i) (alphaTo j) = alphaTo (i + j) := by
  unfold gmul
  rw [indexOf_alphaTo_mod, indexOf_alphaTo_mod]
  exact alphaTo_inj.2 (by omega)

/-- An element is 0 or a power of alpha. -/
theorem eq_zero_or_alphaTo (v : BitVec 5) : v = 0#5 ∨ ∃ i, i < 31 ∧ v = alphaTo i := by
  by_cases h : v = 0#5
  · exact Or.inl h
  · obtain ⟨i, -, hi⟩ := alphaTo_indexOf v h
    exact Or.inr ⟨i.val, i.isLt, hi.symm⟩

@[simp] theorem gmul_zero_right (a : BitVec 5) : gmul a 0#5 = 0#5 := by
  rw [gmul_comm, gmul_zero_left]

theorem gmul_one (a : BitVec 5) : gmul a 1#5 = a := by
  rcases eq_zero_or_alphaTo a with rfl | ⟨i, -, rfl⟩
  · rfl
  · rw [← alphaTo_zero, gmul_alphaTo, Nat.add_zero]

theorem gmul_assoc (a b c : BitVec 5) : gmul (gmul a b) c = gmul a (gmul b c) := by
  rcases eq_zero_or_alphaTo a with rfl | ⟨i, -, rfl⟩
  · simp
  rcases eq_zero_or_alphaTo b with rfl | ⟨j, -, rfl⟩
  · simp
  rcases eq_zero_or_alphaTo c with rfl | ⟨k, -, rfl⟩
  · simp
  simp only [gmul_alphaTo, Nat.add_assoc]

theorem gmul_left_comm (a b c : BitVec 5) : gmul a (gmul b c) = gmul b (gmul a c) := by
  rw [← gmul_assoc, gmul_comm a b, gmul_assoc]

theorem xor_gmul (a b c : BitVec 5) : gmul (a ^^^ b) c = gmul a c ^^^ gmul b c := by
  rw [gmul_comm, gmul_xor, gmul_comm c a, gmul_comm c b]

theorem gmul_eq_zero {a b : BitVec 5} : gmul a b = 0#5 ↔ a = 0#5 ∨ b = 0#5 := by
  refine ⟨fun h => ?_, ?_⟩
  · rcases eq_zero_or_alphaTo a with ha | ⟨i, -, rfl⟩
    · exact Or.inl ha
    rcases eq_zero_or_alphaTo b with hb | ⟨j, -, rfl⟩
    · exact Or.inr hb
    · exact absurd (gmul_alphaTo i j ▸ h) (alphaTo_ne_zero _)
  · rintro (rfl | rfl) <;> simp

theorem gmul_left_cancel {a b c : BitVec 5} (ha : a ≠ 0#5) (h : gmul a b = gmul a c) : b = c := by
  have key : gmul a (b ^^^ c) = 0#5 := by rw [gmul_xor, h, BitVec.xor_self]
  exact BitVec.xor_eq_zero_iff.1 ((gmul_eq_zero.1 key).resolve_left ha)

/-- Dividing by a non-zero element undoes multiplying by it. -/
theorem gmul_ginv_eq {a b c : BitVec 5} (ha : a ≠ 0#5) (h : b = gmul c a) :
    gmul b (ginv a) = c := by
  rw [h, gmul_assoc, gmul_ginv a ha, gmul_one]

theorem ginv_mul_self {a : BitVec 5} (ha : a ≠ 0#5) : gmul (ginv a) a = 1#5 := by
  rw [gmul_comm, gmul_ginv a ha]

/-! ### The even syndromes (`41_bch.md` R125) -/

theorem syndromeOver_double (i : Nat) (w : Word) (l : List Nat) :
    syndromeOver (2 * i) w l = gmul (syndromeOver i w l) (syndromeOver i w l) := by
  induction l with
  | nil => rfl
  | cons j rest ih =>
    simp only [syndromeOver, square_xor, ih]
    congr 1
    split
    · rw [gmul_alphaTo, Nat.mul_assoc, Nat.two_mul]
    · rfl

/-- Squaring is additive, so the syndrome at twice the exponent is the square. -/
theorem syndrome_double (i : Nat) (w : Word) :
    syndrome (2 * i) w = gmul (syndrome i w) (syndrome i w) :=
  syndromeOver_double i w _

/-- Settles O18: both are `syndrome_double`. -/
theorem evenSyndromesAreSquares : Obligations.EvenSyndromesAreSquares := fun w =>
  ⟨syndrome_double 1 w, syndrome_double 2 w⟩

/-! ### The encoder is linear (`41_bch.md` R123, R134) -/

theorem lfsrStep_eq (bb : BitVec 10) (bit : Bool) :
    lfsrStep bb bit = (bb <<< 1) ^^^ (if (bit ^^ bb.getLsbD 9) = true then 0x369#10 else 0#10) := by
  unfold lfsrStep
  cases bit <;> cases bb.getLsbD 9 <;> simp

theorem ite_xor_ite {n : Nat} (x y : Bool) (c : BitVec n) :
    (if (x ^^ y) = true then c else 0#n) =
      (if x = true then c else 0#n) ^^^ (if y = true then c else 0#n) := by
  cases x <;> cases y <;> simp

theorem lfsrStep_xor (a b : BitVec 10) (x y : Bool) :
    lfsrStep (a ^^^ b) (x ^^ y) = lfsrStep a x ^^^ lfsrStep b y := by
  simp only [lfsrStep_eq, BitVec.shiftLeft_xor_distrib, BitVec.getLsbD_xor, ite_xor_ite]
  simp only [BitVec.xor_assoc, BitVec.xor_comm, xor_left_comm]

theorem lfsrSteps_xor (d e : BitVec 21) (l : List Nat) (a b : BitVec 10) :
    l.foldl (fun bb k => lfsrStep bb ((d ^^^ e).getLsbD k)) (a ^^^ b) =
      l.foldl (fun bb k => lfsrStep bb (d.getLsbD k)) a ^^^
        l.foldl (fun bb k => lfsrStep bb (e.getLsbD k)) b := by
  induction l generalizing a b with
  | nil => rfl
  | cons k rest ih =>
    simp only [List.foldl_cons]
    rw [BitVec.getLsbD_xor, lfsrStep_xor, ih]

theorem bchParity_xor (d e : BitVec 21) : bchParity (d ^^^ e) = bchParity d ^^^ bchParity e :=
  lfsrSteps_xor d e _ 0#10 0#10

theorem reverse_xor {n : Nat} (a b : BitVec n) : (a ^^^ b).reverse = a.reverse ^^^ b.reverse := by
  apply BitVec.eq_of_getLsbD_eq
  intro k _
  simp [BitVec.getLsbD_reverse]

/-- The codeword of a sum is the sum of the codewords. -/
theorem bchEncode_xor (d e : BitVec 21) : bchEncode (d ^^^ e) = bchEncode d ^^^ bchEncode e := by
  unfold bchEncode
  rw [bchParity_xor, reverse_xor, BitVec.xor_append, BitVec.xor_append, BitVec.xor_self]

/-- The data bits from bit `b` up: those above it, and bit `b` itself. -/
theorem clear_below_succ (d : BitVec 21) {b : Nat} (hb : b < 21) :
    (d >>> b) <<< b =
      (if d.getLsbD b = true then 1#21 <<< b else 0#21) ^^^ ((d >>> (b + 1)) <<< (b + 1)) := by
  apply BitVec.eq_of_getLsbD_eq
  intro k hk
  have hbit : (if d.getLsbD b = true then 1#21 <<< b else 0#21).getLsbD k =
      (decide (k = b) && d.getLsbD b) := by
    by_cases h : k = b
    · subst h
      cases d.getLsbD k <;> simp [hk]
    · have h' : ¬ k - b = 0 ∨ k < b := by omega
      cases d.getLsbD b <;> simp [h]
      omega
  rw [BitVec.getLsbD_xor, hbit]
  rcases Nat.lt_trichotomy k b with h | rfl | h
  · simp [h, Nat.ne_of_lt h, Nat.lt_succ_of_lt h]
  · simp [hk]
  · have h1 : ¬ k < b := by omega
    have h2 : ¬ k < b + 1 := by omega
    have h3 : b + (k - b) = k := by omega
    have h4 : b + 1 + (k - (b + 1)) = k := by omega
    simp [h1, h2, h3, h4, Nat.ne_of_gt h]

/-- A list holds, from bit `b` up, the codewords of the single bits. -/
def EncodesBitsFrom (b : Nat) : List Word → Prop
  | [] => b = 21
  | row :: rest => b < 21 ∧ bchEncode (1#21 <<< b) = row ∧ EncodesBitsFrom (b + 1) rest

theorem bchEncode_zero : bchEncode 0#21 = 0#32 := by
  have h := bchEncode_xor 0#21 0#21
  rwa [BitVec.xor_self, BitVec.xor_self] at h

/-- Summing the rows of the set bits encodes them, because the encoder is linear. -/
theorem bchEncode_from (d : BitVec 21) (b : Nat) (rows : List Word) (h : EncodesBitsFrom b rows) :
    bchEncode ((d >>> b) <<< b) = xorOfRows d b rows := by
  induction rows generalizing b with
  | nil =>
    obtain rfl : b = 21 := h
    rw [BitVec.shiftLeft_eq_zero (le_refl 21), bchEncode_zero]
    rfl
  | cons row rest ih =>
    obtain ⟨hb, hrow, hrest⟩ := h
    rw [clear_below_succ d hb, bchEncode_xor, ih _ hrest, xorOfRows, ← hrow]
    split
    · rfl
    · rw [bchEncode_zero]
      rfl

/-- The printed rows are the codewords of the single bits. -/
theorem bchRows_encode : EncodesBitsFrom 0 bchRows := by
  simp only [bchRows, EncodesBitsFrom]
  decide +kernel

/-- Settles O16: the encoder is linear, and the printed rows are the codewords of the bits. -/
theorem bchEncodeIsXorOfRows : Obligations.BchEncodeIsXorOfRows := by
  intro d
  have h := bchEncode_from d 0 bchRows bchRows_encode
  rwa [BitVec.ushiftRight_zero, BitVec.shiftLeft_zero] at h

/-! ### The syndromes of codewords (`41_bch.md` R123) -/

theorem syndrome_zero_word (i : Nat) : syndrome i 0#32 = 0#5 := by
  have h := syndrome_xor i 0#32 0#32
  rwa [BitVec.xor_self, BitVec.xor_self] at h

/-- The printed rows have zero syndromes; the even ones follow from the odd ones. -/
theorem odd_syndromes_bchRows :
    bchRows.all (fun row => syndrome 1 row == 0#5 && syndrome 3 row == 0#5) = true := by
  decide +kernel

theorem syndrome_bchRows {i : Nat} (h1 : 1 ≤ i) (h4 : i ≤ 4) {row : Word} (h : row ∈ bchRows) :
    syndrome i row = 0#5 := by
  have hodd := List.all_eq_true.1 odd_syndromes_bchRows row h
  simp only [Bool.and_eq_true, beq_iff_eq] at hodd
  obtain ⟨s1, s3⟩ := hodd
  have s2 : syndrome 2 row = 0#5 := by rw [syndrome_double 1 row, s1]; rfl
  have s4 : syndrome 4 row = 0#5 := by rw [syndrome_double 2 row, s2]; rfl
  interval_cases i <;> assumption

theorem syndrome_xorOfRows (d : BitVec 21) (i b : Nat) (rows : List Word)
    (h : ∀ row ∈ rows, syndrome i row = 0#5) : syndrome i (xorOfRows d b rows) = 0#5 := by
  induction rows generalizing b with
  | nil => exact syndrome_zero_word i
  | cons row rest ih =>
    obtain ⟨hrow, hrest⟩ := List.forall_mem_cons.1 h
    rw [xorOfRows, syndrome_xor, ih _ hrest, BitVec.xor_zero]
    split
    · exact hrow
    · exact syndrome_zero_word i

/-- Every codeword's syndromes 1 to 4 are 0, because each printed row's are. -/
theorem syndrome_bchEncode (d : BitVec 21) {i : Nat} (h1 : 1 ≤ i) (h4 : i ≤ 4) :
    syndrome i (bchEncode d) = 0#5 := by
  rw [bchEncodeIsXorOfRows d]
  exact syndrome_xorOfRows d i 0 bchRows fun row hrow => syndrome_bchRows h1 h4 hrow

/-- Ten parity bits alone with zero syndromes are all 0. -/
theorem parity_eq_zero_of_syndromes : ∀ p : BitVec 10,
    syndrome 1 ((p.setWidth 32) <<< 21) = 0#5 → syndrome 3 ((p.setWidth 32) <<< 21) = 0#5 →
      p = 0#10 := by
  decide +kernel

/-- A word without data bits is, but for bit 31, its ten parity bits. -/
theorem codewordPart_of_no_data {v : Word} (h : v.extractLsb' 0 21 = 0#21) :
    codewordPart v = ((v.extractLsb' 21 10).setWidth 32) <<< 21 := by
  apply BitVec.eq_of_getLsbD_eq
  intro k hk
  have hmask : (0x7FFFFFFF#32).getLsbD k = decide (k < 31) := by
    revert hk k
    decide
  have hdata : k < 21 → v.getLsbD k = false := fun hlt => by
    have := congrArg (fun x => x.getLsbD k) h
    simpa [hlt] using this
  rw [codewordPart, BitVec.getLsbD_and, hmask]
  by_cases hlt : k < 21
  · simp [hlt, hdata hlt]
  · have hk1 : 21 + (k - 21) = k := by omega
    have hk2 : (k - 21 < 10) ↔ (k < 31) := by omega
    by_cases h31 : k < 31 <;> simp [hlt, hk, hk1, hk2, h31]

theorem codeBits_codewordPart (w : Word) : codeBits (codewordPart w) = codeBits w := by
  have hmask : codeBits 0x7FFFFFFF#32 = BitVec.allOnes 31 := by decide
  unfold codeBits codewordPart at *
  rw [BitVec.extractLsb'_and, hmask, BitVec.and_allOnes]

/-- A word with zero syndromes is, but for bit 31, the codeword of its data: their sum has no data
bits and zero syndromes. -/
theorem codeBits_eq_of_syndromes {w : Word} (h1 : syndrome 1 w = 0#5) (h3 : syndrome 3 w = 0#5) :
    codeBits w = codeBits (bchEncode (w.extractLsb' 0 21)) := by
  generalize hd : w.extractLsb' 0 21 = d
  have hdata : (w ^^^ bchEncode d).extractLsb' 0 21 = 0#21 := by
    rw [BitVec.extractLsb'_xor, bchEncode_data, hd, BitVec.xor_self]
  have hpart := codewordPart_of_no_data hdata
  have hsyn : ∀ i, 1 ≤ i → i ≤ 4 → syndrome i w = 0#5 →
      syndrome i (codewordPart (w ^^^ bchEncode d)) = 0#5 := fun i hi hi' h => by
    rw [syndrome_codewordPart, syndrome_xor, h, syndrome_bchEncode d hi hi', BitVec.xor_zero]
  have hzero : codewordPart (w ^^^ bchEncode d) = 0#32 := by
    have hp := parity_eq_zero_of_syndromes _ (hpart ▸ hsyn 1 (by decide) (by decide) h1)
      (hpart ▸ hsyn 3 (by decide) (by decide) h3)
    rw [hpart, hp]
    rfl
  have hbits : codeBits (w ^^^ bchEncode d) = 0#31 := by
    rw [← codeBits_codewordPart, hzero]
    rfl
  exact BitVec.xor_eq_zero_iff.1 (by rwa [codeBits, BitVec.extractLsb'_xor] at hbits)

/-- Settles O17. -/
theorem syndromesZeroOnCodewords : Obligations.SyndromesZeroOnCodewords :=
  ⟨fun d _ h1 h4 => syndrome_bchEncode d h1 h4, fun _ h1 h3 => codeBits_eq_of_syndromes h1 h3⟩

end Sys2Proof.Proofs.Bch
end

section
/-! PROOFS. The BCH corrector (`41_bch.md` R126 to R131): the weight of an error, the roots of the
locator, and what `fix_errors` answers for up to two errors and whenever it succeeds. -/

namespace Sys2Proof.Proofs.Corrector

open Sys2Proof.Machine Sys2Proof.Safety Sys2Proof.Proofs.HostCommands Sys2Proof.Proofs.Bch

/-! ### Weights and flips (`41_bch.md` R127) -/

/-- The number of 1s among the 31 codeword bits. -/
def weight (v : Word) : Nat := onesBelow v 31

theorem onesBelow_congr {m n : Nat} {a : BitVec m} {b : BitVec n} {k : Nat}
    (h : ∀ i < k, a.getLsbD i = b.getLsbD i) : onesBelow a k = onesBelow b k := by
  induction k with
  | zero => rfl
  | succ k ih =>
    simp [onesBelow, ih fun i hi => h i (Nat.lt_succ_of_lt hi), h k (Nat.lt_succ_self k)]

/-- The distance over the codeword bits is the weight of the difference. -/
theorem hamming_codeBits (a b : Word) : hamming (codeBits a) (codeBits b) = weight (a ^^^ b) :=
  onesBelow_congr fun i hi => by simp [codeBits, hi]

theorem positionMask_getLsbD {j : Nat} (hj : j ≤ 30) {i : Nat} (hi : i < 32) :
    (positionMask j).getLsbD i = decide (i = 30 - j) := by
  by_cases h : i = 30 - j
  · subst h
    simp [positionMask, hi]
  · have h' : i < 30 - j ∨ ¬ i - (30 - j) = 0 := by omega
    simp only [positionMask, BitVec.getLsbD_shiftLeft, BitVec.getLsbD_one, h, decide_false]
    rcases h' with h' | h' <;> simp [h']

theorem codeBit_positionMask {j k : Nat} (hj : j ≤ 30) (hk : k ≤ 30) :
    codeBit (positionMask j) k = decide (k = j) := by
  have h : (30 - k = 30 - j) ↔ (k = j) := by omega
  simp [codeBit, positionMask_getLsbD hj (i := 30 - k) (by omega), h]

theorem onesBelow_flip {v : Word} {j : Nat} (hj : j ≤ 30) {n : Nat} (hn : n ≤ 32) :
    onesBelow (flipPosition v j) n + (if 30 - j < n ∧ codeBit v j = true then 1 else 0) =
      onesBelow v n + (if 30 - j < n ∧ codeBit v j = false then 1 else 0) := by
  induction n with
  | zero => simp [onesBelow]
  | succ n ih =>
    have ih := ih (by omega)
    simp only [onesBelow, flipPosition, BitVec.getLsbD_xor,
      positionMask_getLsbD hj (i := n) (by omega)] at ih ⊢
    by_cases h : n = 30 - j
    · subst h
      simp only [codeBit, Nat.lt_irrefl, false_and, if_false, Nat.lt_succ_self, true_and,
        decide_true] at ih ⊢
      cases v.getLsbD (30 - j) <;> simp at ih ⊢ <;> omega
    · have hlt : (30 - j < n + 1) ↔ (30 - j < n) := by omega
      simp only [h, decide_false, Bool.bne_false, hlt]
      omega

/-- Flipping a 0 raises the weight, flipping a 1 lowers it. -/
theorem weight_flip {v : Word} {j : Nat} (hj : j ≤ 30) :
    (codeBit v j = false → weight (flipPosition v j) = weight v + 1) ∧
      (codeBit v j = true → weight (flipPosition v j) + 1 = weight v) := by
  have h := onesBelow_flip (v := v) hj (n := 31) (by decide)
  have hlt : 30 - j < 31 := by omega
  unfold weight
  constructor <;> intro hb <;> simpa [hb, hlt] using h

theorem exists_codeBit_of_weight {v : Word} (h : weight v ≠ 0) :
    ∃ j, j ≤ 30 ∧ codeBit v j = true := by
  by_contra hno
  refine h ?_
  have hz : weight v = onesBelow 0#32 31 := onesBelow_congr fun i hi => by
    have hi' : 30 - (30 - i) = i := by omega
    by_contra hb
    exact hno ⟨30 - i, by omega, by simpa [codeBit, hi'] using hb⟩
  rw [hz]
  decide

theorem eq_zero_of_weight {v : Word} (h : weight v = 0) (htop : v.getLsbD 31 = false) :
    v = 0#32 := by
  apply BitVec.eq_of_getLsbD_eq
  intro i hi
  rw [BitVec.getLsbD_zero]
  by_cases h31 : i = 31
  · rw [h31, htop]
  · by_contra hb
    have hi' : 30 - (30 - i) = i := by omega
    have hbit : codeBit v (30 - i) = true := by simpa [codeBit, hi'] using hb
    have := (weight_flip (by omega)).2 hbit
    omega

theorem flipPosition_flipPosition (v : Word) (j : Nat) :
    flipPosition (flipPosition v j) j = v :=
  xor_cancel_right v _

theorem flipPosition_top (v : Word) {j : Nat} (hj : j ≤ 30) :
    (flipPosition v j).getLsbD 31 = v.getLsbD 31 := by
  have h : ¬ (31 : Nat) = 30 - j := by omega
  rw [flipPosition, BitVec.getLsbD_xor, positionMask_getLsbD hj (by decide), decide_eq_false h,
    Bool.xor_false]

/-- An error of weight at most 2 is none, one position or two different positions. -/
theorem error_cases {e : Word} (hw : weight e ≤ 2) (htop : e.getLsbD 31 = false) :
    (weight e = 0 ∧ e = 0#32) ∨ (∃ j, j ≤ 30 ∧ weight e = 1 ∧ e = positionMask j) ∨
      ∃ j k, j ≤ 30 ∧ k ≤ 30 ∧ j ≠ k ∧ weight e = 2 ∧ e = positionMask j ^^^ positionMask k := by
  by_cases h0 : weight e = 0
  · exact Or.inl ⟨h0, eq_zero_of_weight h0 htop⟩
  obtain ⟨j, hj, hbit⟩ := exists_codeBit_of_weight h0
  have hw1 := (weight_flip hj).2 hbit
  have htop1 : (flipPosition e j).getLsbD 31 = false := (flipPosition_top e hj).trans htop
  have hback : e = flipPosition e j ^^^ positionMask j := (flipPosition_flipPosition e j).symm
  right
  by_cases h1 : weight (flipPosition e j) = 0
  · refine Or.inl ⟨j, hj, by omega, ?_⟩
    rw [hback, eq_zero_of_weight h1 htop1, BitVec.zero_xor]
  obtain ⟨k, hk, hbit1⟩ := exists_codeBit_of_weight h1
  have hw2 := (weight_flip hk).2 hbit1
  have hzero := eq_zero_of_weight (v := flipPosition (flipPosition e j) k) (by omega)
    ((flipPosition_top _ hk).trans htop1)
  have hne : j ≠ k := by
    rintro rfl
    simp [flipPosition, codeBit_positionMask hj hj, hbit] at hbit1
  refine Or.inr ⟨j, k, hj, hk, hne, by omega, ?_⟩
  have hk' : flipPosition e j = positionMask k := by
    rw [← flipPosition_flipPosition (flipPosition e j) k, hzero]
    exact BitVec.zero_xor
  rw [hback, hk', BitVec.xor_comm]

/-- One flipped position has weight 1, two different ones weight 2. -/
theorem weight_positionMask {j : Nat} (hj : j ≤ 30) : weight (positionMask j) = 1 := by
  have h := (weight_flip (v := 0#32) hj).1 (by simp [codeBit])
  rwa [flipPosition, BitVec.zero_xor] at h

theorem weight_positionMask_xor {j k : Nat} (hj : j ≤ 30) (hk : k ≤ 30) (hne : j ≠ k) :
    weight (positionMask j ^^^ positionMask k) = 2 := by
  have h := (weight_flip (v := positionMask j) hk).1
    (by simp [codeBit_positionMask hj hk, Ne.symm hne])
  rwa [weight_positionMask hj] at h

/-! ### The syndromes of single positions (`41_bch.md` R125) -/

theorem syndromes_positionMask {j : Nat} (hj : j ≤ 30) :
    syndrome 1 (positionMask j) = alphaTo j ∧ syndrome 3 (positionMask j) = alphaTo (3 * j) := by
  obtain ⟨h1, -, h3, -⟩ := syndrome_positionMask ⟨j, by omega⟩
  exact ⟨h1, h3⟩

theorem alphaTo_ne {j k : Nat} (hj : j ≤ 30) (hk : k ≤ 30) (hne : j ≠ k) :
    alphaTo j ≠ alphaTo k := by
  intro h
  have := alphaTo_inj.1 h
  omega

theorem alphaTo_cube (i : Nat) :
    alphaTo (3 * i) = gmul (alphaTo i) (gmul (alphaTo i) (alphaTo i)) := by
  rw [gmul_alphaTo, gmul_alphaTo]
  congr 1
  omega

/-! ### The locator of two positions (`41_bch.md` R128) -/

/-- The locator as a polynomial in the trial element. -/
theorem locatorValue_eq (elp1 elp2 : BitVec 5) (i : Nat) :
    locatorValue elp1 elp2 i =
      1#5 ^^^ gmul elp1 (alphaTo i) ^^^ gmul elp2 (gmul (alphaTo i) (alphaTo i)) := by
  rw [gmul_alphaTo, ← Nat.two_mul]
  rfl

/-- With the inverses' sum and product as coefficients it factors. -/
theorem locator_factors (a b x : BitVec 5) :
    1#5 ^^^ gmul (ginv a ^^^ ginv b) x ^^^ gmul (gmul (ginv a) (ginv b)) (gmul x x) =
      gmul (1#5 ^^^ gmul (ginv a) x) (1#5 ^^^ gmul (ginv b) x) := by
  simp only [xor_gmul, gmul_xor, gmul_comm (1#5), gmul_one]
  simp only [gmul_left_comm, gmul_comm]
  ac_rfl

theorem ginv_ne_zero {a : BitVec 5} (ha : a ≠ 0#5) : ginv a ≠ 0#5 := by
  intro h
  have := gmul_ginv a ha
  rw [h, gmul_zero_right] at this
  exact absurd this (by decide)

theorem one_xor_inverse_mul {a x : BitVec 5} (ha : a ≠ 0#5) :
    1#5 ^^^ gmul (ginv a) x = 0#5 ↔ x = a := by
  rw [BitVec.xor_eq_zero_iff]
  refine ⟨fun h => gmul_left_cancel (ginv_ne_zero ha) ?_, fun h => by rw [h, ginv_mul_self ha]⟩
  rw [← h, ginv_mul_self ha]

/-- The discrepancy of two positions: `s1^3 + s3` is their product times their sum. -/
theorem discrepancy (a b : BitVec 5) :
    gmul (a ^^^ b) (gmul (a ^^^ b) (a ^^^ b)) ^^^ (gmul a (gmul a a) ^^^ gmul b (gmul b b)) =
      gmul (gmul a b) (a ^^^ b) := by
  rw [square_xor]
  simp only [xor_gmul, gmul_xor]
  simp only [gmul_left_comm, gmul_comm]
  simp only [BitVec.xor_assoc, BitVec.xor_comm, xor_left_comm, xor_cancel_left, BitVec.xor_self,
    BitVec.zero_xor]

/-- So the machine's coefficients are the inverses' sum and product. -/
theorem locator_coefficients {a b : BitVec 5} (ha : a ≠ 0#5) (hb : b ≠ 0#5) (hab : a ≠ b) :
    gmul (gmul (a ^^^ b) (a ^^^ b)) (ginv (gmul (gmul a b) (a ^^^ b))) = ginv a ^^^ ginv b ∧
      gmul (a ^^^ b) (ginv (gmul (gmul a b) (a ^^^ b))) = gmul (ginv a) (ginv b) := by
  have hs : a ^^^ b ≠ 0#5 := fun h => hab (BitVec.xor_eq_zero_iff.1 h)
  have hne : gmul (gmul a b) (a ^^^ b) ≠ 0#5 := by
    simp [gmul_eq_zero, ha, hb, hs]
  have hprod : gmul (gmul (ginv a) (ginv b)) (gmul a b) = 1#5 := by
    rw [gmul_assoc, gmul_left_comm (ginv b), ginv_mul_self hb, gmul_one, ginv_mul_self ha]
  have hsum : gmul (ginv a ^^^ ginv b) (gmul a b) = a ^^^ b := by
    rw [xor_gmul, ← gmul_assoc, ginv_mul_self ha, gmul_left_comm, ginv_mul_self hb, gmul_one,
      gmul_comm 1#5, gmul_one, BitVec.xor_comm]
  refine ⟨gmul_ginv_eq hne ?_, gmul_ginv_eq hne ?_⟩
  · rw [← gmul_assoc, hsum]
  · rw [← gmul_assoc, hprod, gmul_comm, gmul_one]

/-- The exponents from 1 to 31 that stand for one of two positions, in the search's order. -/
theorem chien_order : ∀ j k : Fin 31, j.val < k.val →
    ((List.range' 1 31).filter (fun i => decide (i % 31 = j.val ∨ i % 31 = k.val))).map
        (fun i => i % 31) =
      if j.val = 0 then [k.val, 0] else [j.val, k.val] := by
  decide +kernel

/-- The search finds exactly the two positions. -/
theorem chienRoots_of_positions {elp1 elp2 : BitVec 5} {j k : Nat} (hjk : j < k) (hk : k ≤ 30)
    (h1 : elp1 = ginv (alphaTo j) ^^^ ginv (alphaTo k))
    (h2 : elp2 = gmul (ginv (alphaTo j)) (ginv (alphaTo k))) :
    chienRoots elp1 elp2 = if j = 0 then [k, 0] else [j, k] := by
  have hroot : ∀ i, (locatorValue elp1 elp2 i == 0#5) = decide (i % 31 = j ∨ i % 31 = k) := by
    intro i
    have hj' : j % 31 = j := Nat.mod_eq_of_lt (by omega)
    have hk' : k % 31 = k := Nat.mod_eq_of_lt (by omega)
    rw [Bool.eq_iff_iff, beq_iff_eq, decide_eq_true_eq, locatorValue_eq, h1, h2, locator_factors,
      gmul_eq_zero, one_xor_inverse_mul (alphaTo_ne_zero j),
      one_xor_inverse_mul (alphaTo_ne_zero k),
      alphaTo_inj, alphaTo_inj, hj', hk']
  unfold chienRoots
  simp only [hroot]
  exact chien_order ⟨j, by omega⟩ ⟨k, by omega⟩ hjk

theorem correctDouble_of_lt {w : Word} {s1 s2 s3 : BitVec 5} {j k : Nat} (hjk : j < k)
    (hk : k ≤ 30) (h1 : s1 = alphaTo j ^^^ alphaTo k) (h2 : s2 = gmul s1 s1)
    (h3 : s3 = alphaTo (3 * j) ^^^ alphaTo (3 * k)) :
    correctDouble w s1 s2 s3 = some (w ^^^ (positionMask j ^^^ positionMask k), 2) := by
  have hab := alphaTo_ne (j := j) (by omega) hk (by omega)
  obtain ⟨c1, c2⟩ := locator_coefficients (alphaTo_ne_zero j) (alphaTo_ne_zero k) hab
  unfold correctDouble
  simp only [h2, h3, alphaTo_cube, h1, discrepancy, c1, c2,
    chienRoots_of_positions hjk hk rfl rfl]
  split_ifs with h0
  · subst h0
    simp [flipPosition, BitVec.xor_assoc, BitVec.xor_comm]
  · simp [flipPosition, BitVec.xor_assoc]

/-- Two different positions in error are both corrected (`41_bch.md` R128). -/
theorem correctDouble_of_positions {w : Word} {s1 s2 s3 : BitVec 5} {j k : Nat} (hj : j ≤ 30)
    (hk : k ≤ 30) (hne : j ≠ k) (h1 : s1 = alphaTo j ^^^ alphaTo k) (h2 : s2 = gmul s1 s1)
    (h3 : s3 = alphaTo (3 * j) ^^^ alphaTo (3 * k)) :
    correctDouble w s1 s2 s3 = some (w ^^^ (positionMask j ^^^ positionMask k), 2) := by
  rcases Nat.lt_or_gt_of_ne hne with h | h
  · exact correctDouble_of_lt h hk h1 h2 h3
  · rw [BitVec.xor_comm (positionMask j)]
    exact correctDouble_of_lt h hj (h1.trans (BitVec.xor_comm ..)) h2
      (h3.trans (BitVec.xor_comm ..))

/-! ### The single-error test (`41_bch.md` R127) -/

theorem singleErrorPosition_eq_some {s1 s3 : BitVec 5} {p : Nat} :
    singleErrorPosition s1 s3 = some p ↔ p < 31 ∧ s1 = alphaTo p ∧ s3 = alphaTo (3 * p) := by
  unfold singleErrorPosition
  constructor
  · intro h
    rcases eq_zero_or_alphaTo s1 with rfl | ⟨i, hi, rfl⟩
    · simp [indexOf] at h
    rcases eq_zero_or_alphaTo s3 with rfl | ⟨k, hk, rfl⟩
    · simp [indexOf] at h
    simp only [indexOf_alphaTo_mod, Option.ite_none_right_eq_some, Option.some.injEq] at h
    obtain ⟨hk3, rfl⟩ := h
    refine ⟨Nat.mod_lt _ (by decide), (alphaTo_mod i).symm, ?_⟩
    rw [alphaTo_inj]
    omega
  · rintro ⟨hp, rfl, rfl⟩
    simp only [indexOf_alphaTo_mod, Option.ite_none_right_eq_some, Option.some.injEq]
    omega

/-- Two different positions do not look like one: their discrepancy is not 0. -/
theorem singleErrorPosition_of_positions (j k : Nat) (hne : alphaTo j ≠ alphaTo k) :
    singleErrorPosition (alphaTo j ^^^ alphaTo k) (alphaTo (3 * j) ^^^ alphaTo (3 * k)) = none := by
  rw [Option.eq_none_iff_forall_ne_some]
  intro p hp
  obtain ⟨-, h1, h3⟩ := singleErrorPosition_eq_some.1 hp
  have hd := discrepancy (alphaTo j) (alphaTo k)
  rw [← alphaTo_cube, ← alphaTo_cube, h3, h1, ← alphaTo_cube, BitVec.xor_self, eq_comm,
    gmul_eq_zero, gmul_eq_zero] at hd
  simp [alphaTo_ne_zero, ← h1, hne] at hd

/-! ### The corrector's answers (`41_bch.md` R126) -/

theorem bchCorrect_of_no_error {w : Word} (h1 : syndrome 1 w = 0#5) (h3 : syndrome 3 w = 0#5) :
    bchCorrect w = some (w, 0) := by
  have h2 : syndrome 2 w = 0#5 := by rw [syndrome_double 1 w, h1]; rfl
  have h4 : syndrome 4 w = 0#5 := by rw [syndrome_double 2 w, h2]; rfl
  simp [bchCorrect, h1, h2, h3, h4]

theorem bchCorrect_of_single {w : Word} {p : Nat} (hp : p < 31) (h1 : syndrome 1 w = alphaTo p)
    (h3 : syndrome 3 w = alphaTo (3 * p)) : bchCorrect w = some (flipPosition w p, 1) := by
  simp [bchCorrect, h1, h3, alphaTo_ne_zero, singleErrorPosition_eq_some.2 ⟨hp, rfl, rfl⟩]

theorem bchCorrect_of_double {w : Word} (h1 : syndrome 1 w ≠ 0#5)
    (hs : singleErrorPosition (syndrome 1 w) (syndrome 3 w) = none) :
    bchCorrect w = correctDouble w (syndrome 1 w) (syndrome 2 w) (syndrome 3 w) := by
  simp [bchCorrect, h1, hs]

/-- A word at most two errors from a codeword is corrected to it. -/
theorem bchCorrect_codeword_xor (d : BitVec 21) {e : Word} (hw : weight e ≤ 2)
    (htop : e.getLsbD 31 = false) :
    bchCorrect (bchEncode d ^^^ e) = some (bchEncode d, weight e) := by
  have hsyn : ∀ i, 1 ≤ i → i ≤ 4 → syndrome i (bchEncode d ^^^ e) = syndrome i e :=
    fun i h1 h4 => by rw [syndrome_xor, syndrome_bchEncode d h1 h4, BitVec.zero_xor]
  have hs1 := hsyn 1 (by decide) (by decide)
  have hs3 := hsyn 3 (by decide) (by decide)
  rcases error_cases hw htop with ⟨hwt, rfl⟩ | ⟨j, hj, hwt, rfl⟩ | ⟨j, k, hj, hk, hne, hwt, rfl⟩
  · rw [hwt, bchCorrect_of_no_error (hs1.trans (syndrome_zero_word 1))
      (hs3.trans (syndrome_zero_word 3)), BitVec.xor_zero]
  · obtain ⟨m1, m3⟩ := syndromes_positionMask hj
    rw [hwt, bchCorrect_of_single (p := j) (by omega) (hs1.trans m1) (hs3.trans m3), flipPosition,
      xor_cancel_right]
  · obtain ⟨m1, m3⟩ := syndromes_positionMask hj
    obtain ⟨n1, n3⟩ := syndromes_positionMask hk
    have e1 := hs1.trans ((syndrome_xor 1 _ _).trans (congrArg₂ _ m1 n1))
    have e3 := hs3.trans ((syndrome_xor 3 _ _).trans (congrArg₂ _ m3 n3))
    have hne1 : syndrome 1 (bchEncode d ^^^ (positionMask j ^^^ positionMask k)) ≠ 0#5 := by
      rw [e1]
      exact fun h => alphaTo_ne hj hk hne (BitVec.xor_eq_zero_iff.1 h)
    rw [hwt, bchCorrect_of_double hne1
      (by rw [e1, e3, singleErrorPosition_of_positions j k (alphaTo_ne hj hk hne)]),
      correctDouble_of_positions hj hk hne e1 (syndrome_double 1 _) e3, xor_cancel_right]

theorem codewordPart_top (w : Word) : (codewordPart w).getLsbD 31 = false := by
  simp [codewordPart]

/-- Settles O20. -/
theorem correctsUpToTwoErrors : Obligations.CorrectsUpToTwoErrors := by
  intro d w hdist
  have hpart : codewordPart w = bchEncode d ^^^ (codewordPart w ^^^ bchEncode d) := by
    rw [BitVec.xor_comm (codewordPart w), xor_cancel_left]
  have hweight : hamming (codeBits w) (codeBits (bchEncode d)) =
      weight (codewordPart w ^^^ bchEncode d) := by
    rw [← codeBits_codewordPart, hamming_codeBits]
  have htop : (codewordPart w ^^^ bchEncode d).getLsbD 31 = false := by
    rw [BitVec.getLsbD_xor, bchEncode_top, codewordPart_top]
    rfl
  rw [hweight] at hdist ⊢
  rw [fixErrors, hpart, bchCorrect_codeword_xor d hdist htop, ← hpart]

/-! ### What a success holds (`41_bch.md` R130, R132) -/

/-- The search's answers are different positions where the locator vanishes. -/
theorem chienRoots_pair {elp1 elp2 : BitVec 5} {p q : Nat} (h : chienRoots elp1 elp2 = [p, q]) :
    p ≠ q ∧ ∀ r ∈ [p, q], r ≤ 30 ∧ locatorValue elp1 elp2 r = 0#5 := by
  have hnodup : (chienRoots elp1 elp2).Nodup := by
    have hall : ((List.range' 1 31).map fun i => i % 31).Nodup := by decide
    exact hall.sublist (List.filter_sublist.map _)
  rw [h] at hnodup
  refine ⟨by simpa using hnodup, fun r hr => ?_⟩
  rw [← h, chienRoots, List.mem_map] at hr
  obtain ⟨i, hi, rfl⟩ := hr
  have hroot := (List.mem_filter.1 hi).2
  rw [beq_iff_eq, locatorValue_eq] at hroot
  rw [locatorValue_eq, alphaTo_mod]
  exact ⟨by omega, hroot⟩

/-- The converse of `locator_coefficients`: two different roots of the machine's locator are the
elements of a double error with these syndromes. -/
theorem sum_of_locator_roots {s aux a b : BitVec 5} (hab : a ≠ b)
    (ha : 1#5 ^^^ gmul (gmul (gmul s s) (ginv aux)) a ^^^ gmul (gmul s (ginv aux)) (gmul a a) = 0#5)
    (hb : 1#5 ^^^ gmul (gmul (gmul s s) (ginv aux)) b ^^^
      gmul (gmul s (ginv aux)) (gmul b b) = 0#5) :
    s = a ^^^ b ∧ aux = gmul (gmul a b) (a ^^^ b) := by
  have root : ∀ x : BitVec 5,
      1#5 ^^^ gmul (gmul (gmul s s) (ginv aux)) x ^^^ gmul (gmul s (ginv aux)) (gmul x x) = 0#5 →
        gmul (gmul s (ginv aux)) (gmul x (s ^^^ x)) = 1#5 := by
    intro x hx
    rw [BitVec.xor_assoc, BitVec.xor_eq_zero_iff] at hx
    rw [hx, gmul_xor, gmul_xor]
    simp only [gmul_left_comm, gmul_comm]
  have ha := root a ha
  have hb := root b hb
  have hne : gmul s (ginv aux) ≠ 0#5 := by
    rintro h
    rw [h, gmul_zero_left] at ha
    exact absurd ha (by decide)
  have hs : s = a ^^^ b := by
    have heq := gmul_left_cancel hne (ha.trans hb.symm)
    have hsum : a ^^^ b ≠ 0#5 := fun h => hab (BitVec.xor_eq_zero_iff.1 h)
    refine gmul_left_cancel hsum ?_
    rw [gmul_xor, gmul_xor, ← BitVec.xor_eq_zero_iff] at heq
    rw [← BitVec.xor_eq_zero_iff, square_xor, ← heq, xor_gmul]
    ac_rfl
  refine ⟨hs, ?_⟩
  have haux : aux ≠ 0#5 := by
    rintro rfl
    exact hne (gmul_zero_right s)
  have hx : s ^^^ a = b := by rw [hs, BitVec.xor_comm, xor_cancel_left]
  rw [hx] at ha
  rw [← gmul_one aux, ← ha, ← hs]
  have hinv := gmul_ginv aux haux
  rw [gmul_assoc s, gmul_left_comm aux, ← gmul_assoc aux, hinv, gmul_comm 1#5, gmul_one, gmul_comm]

/-- A double correction flips the two positions whose elements give the syndromes. -/
theorem correctDouble_eq_some {w c : Word} {s1 s3 : BitVec 5} {n : Nat}
    (h : correctDouble w s1 (gmul s1 s1) s3 = some (c, n)) :
    ∃ p q, p ≤ 30 ∧ q ≤ 30 ∧ p ≠ q ∧ n = 2 ∧ c = flipPosition (flipPosition w p) q ∧
      s1 = alphaTo p ^^^ alphaTo q ∧ s3 = alphaTo (3 * p) ^^^ alphaTo (3 * q) := by
  unfold correctDouble at h
  simp only at h
  split at h
  · rename_i p q hroots
    obtain ⟨rfl, rfl⟩ : flipPosition (flipPosition w p) q = c ∧ 2 = n := by simpa using h
    obtain ⟨hne, hpq⟩ := chienRoots_pair hroots
    obtain ⟨hp, rp⟩ := hpq p (by simp)
    obtain ⟨hq, rq⟩ := hpq q (by simp)
    rw [locatorValue_eq] at rp rq
    obtain ⟨e1, e3⟩ := sum_of_locator_roots (alphaTo_ne hp hq hne) rp rq
    refine ⟨p, q, hp, hq, hne, rfl, rfl, e1, ?_⟩
    rw [← discrepancy, e1, ← alphaTo_cube, ← alphaTo_cube] at e3
    exact (BitVec.xor_right_inj _).1 e3
  · simp at h

/-- A success changed a set of at most two positions whose syndromes are the word's. -/
theorem bchCorrect_eq_some {w c : Word} {n : Nat} (h : bchCorrect w = some (c, n)) :
    ∃ e, c = w ^^^ e ∧ weight e = n ∧ n ≤ 2 ∧ e.getLsbD 31 = false ∧
      syndrome 1 e = syndrome 1 w ∧ syndrome 3 e = syndrome 3 w := by
  unfold bchCorrect at h
  simp only at h
  have htop : ∀ j, j ≤ 30 → (positionMask j).getLsbD 31 = false := fun j hj => by
    simpa [flipPosition] using flipPosition_top 0#32 hj
  split_ifs at h with h0 h1
  · obtain ⟨s1, -, s3, -⟩ := h0
    obtain ⟨rfl, rfl⟩ : w = c ∧ 0 = n := by simpa using h
    exact ⟨0#32, by simp, by decide, by decide, by simp, by rw [s1, syndrome_zero_word],
      by rw [s3, syndrome_zero_word]⟩
  · split at h
    · rename_i p hp
      obtain ⟨rfl, rfl⟩ : flipPosition w p = c ∧ 1 = n := by simpa using h
      obtain ⟨hp31, s1, s3⟩ := singleErrorPosition_eq_some.1 hp
      have hp30 : p ≤ 30 := by omega
      obtain ⟨m1, m3⟩ := syndromes_positionMask hp30
      exact ⟨positionMask p, rfl, weight_positionMask hp30, by decide, htop p hp30,
        m1.trans s1.symm,
        m3.trans s3.symm⟩
    · rw [syndrome_double 1] at h
      obtain ⟨p, q, hp, hq, hne, rfl, rfl, s1, s3⟩ := correctDouble_eq_some h
      obtain ⟨m1, m3⟩ := syndromes_positionMask hp
      obtain ⟨n1, n3⟩ := syndromes_positionMask hq
      refine ⟨positionMask p ^^^ positionMask q, BitVec.xor_assoc ..,
        weight_positionMask_xor hp hq hne, by decide, ?_, ?_, ?_⟩
      · rw [BitVec.getLsbD_xor, htop p hp, htop q hq]
        rfl
      · rw [syndrome_xor, m1, n1, s1]
      · rw [syndrome_xor, m3, n3, s3]

theorem eq_of_codeBits {a b : Word} (h : codeBits a = codeBits b) (ha : a.getLsbD 31 = false)
    (hb : b.getLsbD 31 = false) : a = b := by
  apply BitVec.eq_of_getLsbD_eq
  intro i hi
  by_cases h31 : i = 31
  · rw [h31, ha, hb]
  · have := congrArg (fun x => x.getLsbD i) h
    have hi' : i < 31 := by omega
    simpa [codeBits, hi'] using this

/-- Settles O21: the corrected word's syndromes are 0, so it is a codeword, and it differs from the
word in the positions flipped. -/
theorem successHoldsACodeword : Obligations.SuccessHoldsACodeword := by
  intro w c n h
  obtain ⟨e, rfl, hweight, hn, htop, s1, s3⟩ := bchCorrect_eq_some h
  have hctop : (codewordPart w ^^^ e).getLsbD 31 = false := by
    rw [BitVec.getLsbD_xor, codewordPart_top, htop]
    rfl
  have hcode := codeBits_eq_of_syndromes (w := codewordPart w ^^^ e)
    (by rw [syndrome_xor, s1, BitVec.xor_self]) (by rw [syndrome_xor, s3, BitVec.xor_self])
  refine ⟨eq_of_codeBits hcode hctop (bchEncode_top _), hctop, hn, ?_⟩
  rw [← codeBits_codewordPart w, hamming_codeBits, xor_cancel_left, hweight]

end Sys2Proof.Proofs.Corrector
end

section
/-! PROOFS. The commands that run no handler (`46_host_commands.md` R270 to R279) and the rows that
write one register: their outcomes, and the inversion of `exec` that the statements over every
instruction use. -/

namespace Sys2Proof.Proofs.Commands

open Sys2Proof.Machine Sys2Proof.Safety Sys2Proof.Proofs.HostCommands Sys2Proof.Proofs.SymSync1

/-! ### The step -/

/-- Settles O6: `step` is the queue's match. -/
theorem stepRunsDecodedInstruction : Obligations.StepRunsDecodedInstruction := by
  refine ⟨fun s w rest i hp hd => ?_, fun s hp => ?_⟩
  · unfold step
    rw [hp, ← hd]
  · unfold step
    rw [hp]

/-! ### Power-on, CFG and the refused commands -/

/-- Settles O7: the four sub-blocks hold their reset values. -/
theorem powerOnValues : Obligations.PowerOnValues :=
  ⟨rfl, rfl, atReset_of_subblocks rfl rfl rfl rfl⟩

/-- What a successful CFG leaves (`46_host_commands.md` R271). -/
def configure (f : Word) (s : State) : State :=
  { beginResponse (resetRegisters s) with configured := true, sampleFreq := f }

theorem exec_cfg (f : Word) (s : State) :
    exec (.cfg f) s =
      if f = 0#32 then .next (errorResponse .invalidConfiguration 0#32 s)
      else .next (configure f s) := rfl

/-- An error response changes no register. -/
theorem errorResponse_sameRegisters (e : ErrorCode) (v : Word) (s : State) :
    SameRegisters s (errorResponse e v s) := by
  simp [SameRegisters]

/-- A refused command answers its refusal and changes no register. -/
theorem refuse_answers (e : ErrorCode) (s : State) :
    ∃ t, refuse e s = .next t ∧ SameRegisters s t ∧ t.response = refusal e :=
  ⟨_, rfl, errorResponse_sameRegisters e 0#32 s, rfl⟩

/-- Settles O8. -/
theorem cfgConfiguresOrRefuses : Obligations.CfgConfiguresOrRefuses := by
  intro f s
  rw [exec_cfg]
  by_cases h : f = 0#32
  · rw [if_pos h]
    exact ⟨_, rfl, fun hne => absurd h hne,
      fun _ => ⟨errorResponse_sameRegisters .invalidConfiguration 0#32 s, rfl⟩⟩
  · rw [if_neg h]
    exact ⟨_, rfl, fun _ => ⟨rfl, rfl, atReset_of_subblocks rfl rfl rfl rfl, rfl⟩,
      fun hz => absurd hz h⟩

theorem exec_illegal {i : Instr} (h : i ∈ illegalRows) (s : State) :
    exec i s = refuse .illegalCommand s := by
  simp only [illegalRows, List.mem_cons, List.not_mem_nil, or_false] at h
  rcases h with rfl | rfl | rfl | rfl | rfl | rfl | rfl | rfl <;> rfl

/-- Settles O10: each of the rows is refused. -/
theorem illegalOpcodesRefused : Obligations.IllegalOpcodesRefused := by
  intro i hi s
  rw [exec_illegal hi]
  exact refuse_answers _ s

theorem exec_smp_unconfigured {v : Word} {s : State} (hc : s.configured = false) :
    exec (.smp v) s = refuse .notConfigured s :=
  if_pos hc

theorem exec_sym_unconfigured {q : Symbol} {s : State} (hc : s.configured = false) :
    exec (.sym q) s = refuse .notConfigured s :=
  if_pos hc

theorem sampleIsFinite_eq_false {v : Word} :
    sampleIsFinite v = false ↔ v.extractLsb' 23 8 = 0xFF#8 := by
  simp [sampleIsFinite]

theorem exec_smp_notFinite {v : Word} {s : State} (hc : s.configured = true)
    (hv : v.extractLsb' 23 8 = 0xFF#8) : exec (.smp v) s = refuse .badOperand s := by
  change execSmp v s = _
  unfold execSmp
  rw [if_neg (by simp [hc]), if_pos (sampleIsFinite_eq_false.2 hv)]

/-- Settles O11: the checks are made in the order `configured`, operand. -/
theorem smpAndSymRefusals : Obligations.SmpAndSymRefusals := by
  refine ⟨fun v s hc => ?_, fun q s hc => ?_, fun v s hc hv => ?_⟩
  · rw [exec_smp_unconfigured hc]
    exact refuse_answers _ s
  · rw [exec_sym_unconfigured hc]
    exact refuse_answers _ s
  · rw [exec_smp_notFinite hc hv]
    exact refuse_answers _ s

/-- Settles O14: every instruction begins a new response or writes a whole one. -/
theorem responseIsOutputOnly : Obligations.ResponseIsOutputOnly := by
  intro i s r
  cases i <;> rfl

/-! ### BCHFIX and the read commands -/

/-- The state a command that only answers leaves. -/
def answer (v : Word) (aux : BitVec 3) (s : State) : State :=
  setAux aux (setValue v (beginResponse s))

theorem answer_sameRegisters (v : Word) (aux : BitVec 3) (s : State) :
    SameRegisters s (answer v aux s) := by
  simp [SameRegisters, answer]

theorem answer_response (v : Word) (aux : BitVec 3) (s : State) :
    (answer v aux s).response = { status := .ok, value := v, aux := aux, events := [] } := rfl

theorem exec_bchfix_some {w c : Word} {n : Nat} (s : State) (h : fixErrors w = some (c, n)) :
    exec (.bchfix w) s = .next (answer c (BitVec.ofNat 3 (4 + n)) s) := by
  change execBchfix w s = _
  unfold execBchfix
  rw [h]
  rfl

theorem exec_bchfix_none {w : Word} (s : State) (h : fixErrors w = none) :
    exec (.bchfix w) s = .next (errorResponse .bchUncorrectable w s) := by
  change execBchfix w s = _
  unfold execBchfix
  rw [h]

/-- Settles O19. -/
theorem bchfixResponse : Obligations.BchfixResponse := by
  intro w s
  cases h : fixErrors w with
  | some r =>
    refine ⟨_, exec_bchfix_some (c := r.1) (n := r.2) s h, answer_sameRegisters _ _ s, ?_, ?_⟩
    · rintro c n hcn
      obtain rfl : r = (c, n) := Option.some.inj hcn
      rfl
    · simp
  | none =>
    exact ⟨_, exec_bchfix_none s h, errorResponse_sameRegisters .bchUncorrectable w s, by simp,
      fun _ => rfl⟩

theorem pbIndexExists_iff {k : BitVec 7} : pbIndexExists k = true ↔ k.toNat ≤ 87 := by
  have h88 : Config.phaseWords = 88 := rfl
  rw [pbIndexExists, decide_eq_true_eq, h88]
  omega

theorem exec_rdpb (p : Phase) (k : BitVec 7) (s : State) :
    exec (.rdpb p k) s =
      if pbIndexExists k = true then .next (answer (pbRead p k s) 0 s) else refuse .badAddress s :=
  rfl

/-- Settles O22. -/
theorem rdpbReadsOrRefuses : Obligations.RdpbReadsOrRefuses := by
  intro p k s
  rw [exec_rdpb]
  split
  · rename_i h
    refine ⟨_, rfl, answer_sameRegisters _ _ s, fun _ => rfl, fun h87 => ?_⟩
    have := pbIndexExists_iff.1 h
    omega
  · rename_i h
    exact ⟨_, rfl, errorResponse_sameRegisters .badAddress 0#32 s,
      fun h87 => absurd (pbIndexExists_iff.2 h87) h, fun _ => rfl⟩

theorem exec_rdcsr_some {n : BitVec 8} {s : State} {v : Word} (h : csrRead n s = some v) :
    exec (.rdcsr n) s = .next (answer v 0 s) := by
  change execRdcsr n s = _
  unfold execRdcsr
  rw [h]
  rfl

theorem exec_rdcsr_none {n : BitVec 8} {s : State} (h : csrRead n s = none) :
    exec (.rdcsr n) s = refuse .badAddress s := by
  change execRdcsr n s = _
  unfold execRdcsr
  rw [h]

theorem csrRead_unlisted (s : State) :
    ∀ {n : BitVec 8}, n = 0x0F#8 ∨ 0x19 < n.toNat → csrRead n s = none := by
  intro n h
  rcases h with rfl | h
  · rfl
  · unfold csrRead
    split <;> first | rfl | omega

/-- Settles O24. -/
theorem rdcsrRefusesUnlisted : Obligations.RdcsrRefusesUnlisted := by
  intro n s h
  rw [exec_rdcsr_none (csrRead_unlisted s h)]
  exact refuse_answers _ s

/-! ### The register map (`10_state.md` R47) -/

theorem toNat_append_eq_add {m n : Nat} (a : BitVec m) (b : BitVec n) :
    (a ++ b).toNat = 2 ^ n * a.toNat + b.toNat := by
  rw [BitVec.toNat_append, ← Nat.shiftLeft_add_eq_or_of_lt b.isLt, Nat.shiftLeft_eq, Nat.mul_comm]

/-- A register shown as a number: the number is the word's, and fits in it. -/
def Shows (s : State) (n : BitVec 8) (v : Nat) : Prop :=
  ∃ w : Word, csrRead n s = some w ∧ w.toNat = v

theorem shows_status (s : State) :
    (csrStatus s).toNat =
      (frameStateCode s.frame.state).toNat + 4 * s.demod.locked.toNat +
        8 * (if s.sync.polarity = .inverted then 1 else 0) +
        16 * (if s.demod.baud = .b3200 then 1 else 0) +
        32 * (if s.sync.baud = .b3200 then 1 else 0) +
        64 * (if s.sync.levels = .four then 1 else 0) + 128 * s.coll.phaseToggle.toNat +
        256 * s.configured.toNat + 512 * s.demod.modalSymbol.toNat := by
  have hpol : (polarityBit s.sync.polarity).toNat =
      if s.sync.polarity = .inverted then 1 else 0 := by cases s.sync.polarity <;> rfl
  have hbaud : ∀ b : Baud, (baudBit b).toNat = if b = .b3200 then 1 else 0 := by
    intro b
    cases b <;> rfl
  have hlevels : (levelsBit s.sync.levels).toNat = if s.sync.levels = .four then 1 else 0 := by
    cases s.sync.levels <;> rfl
  rw [csrStatus, BitVec.toNat_setWidth,
    Nat.mod_eq_of_lt (lt_of_lt_of_le (BitVec.isLt _) (by decide))]
  simp only [toNat_append_eq_add, BitVec.toNat_ofBool, hpol, hbaud, hlevels]
  omega

theorem shows_phase (s : State) :
    ((BitVec.ofInt 64 s.demod.phase).extractLsb' 0 32).toNat = (s.demod.phase % 2 ^ 32).toNat ∧
      ((BitVec.ofInt 64 s.demod.phase).extractLsb' 32 32).toNat =
        (s.demod.phase / 2 ^ 32 % 2 ^ 32).toNat := by
  simp only [BitVec.extractLsb'_toNat, BitVec.toNat_ofInt, Nat.shiftRight_eq_div_pow]
  omega

theorem shows_halves (b : BitVec 64) :
    (b.extractLsb' 0 32).toNat = b.toNat % 2 ^ 32 ∧
      (b.extractLsb' 32 32).toNat = b.toNat / 2 ^ 32 := by
  have := b.isLt
  simp only [BitVec.extractLsb'_toNat, Nat.shiftRight_eq_div_pow]
  omega

theorem shows_lowHalf (n : Nat) : (lowHalf n).toNat = n % 2 ^ 32 := BitVec.toNat_ofNat ..

theorem shows_highHalf (n : Nat) : (highHalf n).toNat = n / 2 ^ 32 % 2 ^ 32 := BitVec.toNat_ofNat ..

theorem shows_fields (s : State) :
    (csrFiwInfo s).toNat = s.frame.cycleNo.toNat + 16 * s.frame.frameNo.toNat ∧
      (csrSeqCount s).toNat =
        s.frame.fiwCount.toNat + 2 ^ 8 * s.frame.sync2Count.toNat +
          2 ^ 16 * s.frame.dataCount.toNat ∧
      (csrIdleCount s).toNat =
        s.coll.idleCount.n0.toNat + 2 ^ 8 * s.coll.idleCount.n1.toNat +
          2 ^ 16 * s.coll.idleCount.n2.toNat + 2 ^ 24 * s.coll.idleCount.n3.toNat ∧
      (csrPllCount s).toNat = s.demod.timeout.toNat + 2 ^ 8 * s.demod.nonconsec.toNat ∧
      (s.coll.dataBitCounter.setWidth 32).toNat = s.coll.dataBitCounter.toNat := by
  simp only [csrFiwInfo, csrSeqCount, csrIdleCount, csrPllCount, BitVec.toNat_setWidth,
    toNat_append_eq_add, BitVec.toNat_ofNat]
  refine ⟨?_, ?_, ?_, ?_, ?_⟩ <;> bv_omega

/-- Every row of the map is what the machine shows. -/
theorem registerMap_shows (s : State) : ∀ e ∈ registerMap s, Shows s e.1 e.2 := by
  obtain ⟨hfiw, hseq, hidle, hpll, hbits⟩ := shows_fields s
  obtain ⟨hsync0, hsync1⟩ := shows_halves s.sync.syncBuf
  obtain ⟨hlock0, hlock1⟩ := shows_halves s.demod.lockBuffer
  obtain ⟨hphase0, hphase1⟩ := shows_phase s
  simp only [registerMap, List.forall_mem_cons, List.not_mem_nil, false_imp_iff, implies_true,
    and_true]
  exact ⟨⟨_, rfl, shows_status s⟩, ⟨_, rfl, rfl⟩, ⟨_, rfl, rfl⟩, ⟨_, rfl, rfl⟩, ⟨_, rfl, hfiw⟩,
    ⟨_, rfl, hseq⟩, ⟨_, rfl, hbits⟩, ⟨_, rfl, hidle⟩, ⟨_, rfl, hsync0⟩, ⟨_, rfl, hsync1⟩,
    ⟨_, rfl, hlock0⟩, ⟨_, rfl, hlock1⟩, ⟨_, rfl, hphase0⟩, ⟨_, rfl, hphase1⟩, ⟨_, rfl, hpll⟩,
    ⟨_, rfl, rfl⟩, ⟨_, rfl, rfl⟩, ⟨_, rfl, rfl⟩, ⟨_, rfl, rfl⟩, ⟨_, rfl, shows_lowHalf _⟩,
    ⟨_, rfl, shows_highHalf _⟩, ⟨_, rfl, shows_lowHalf _⟩, ⟨_, rfl, shows_highHalf _⟩,
    ⟨_, rfl, shows_lowHalf _⟩, ⟨_, rfl, shows_highHalf _⟩⟩

/-- Settles O23. -/
theorem rdcsrReadsTheMap : Obligations.RdcsrReadsTheMap := by
  intro s n v h
  obtain ⟨w, hread, rfl⟩ : Shows s n v := registerMap_shows s (n, v) h
  refine ⟨_, exec_rdcsr_some hread, answer_sameRegisters _ _ s, ?_, w.isLt⟩
  rw [answer_response, BitVec.ofNat_toNat, BitVec.setWidth_eq]
  rfl

/-! ### The rows that write one register (`30_encoding.md` R91, R94, R95) -/

/-- Settles O52: each row records its own mode. -/
theorem syncCodeRowsRecordTheMode : Obligations.SyncCodeRowsRecordTheMode := by
  intro c s i b l h
  simp only [modeRows, List.mem_cons, List.not_mem_nil, or_false, Prod.mk.injEq] at h
  rcases h with ⟨rfl, rfl, rfl⟩ | ⟨rfl, rfl, rfl⟩ | ⟨rfl, rfl, rfl⟩ | ⟨rfl, rfl, rfl⟩ |
    ⟨rfl, rfl, rfl⟩ | ⟨rfl, rfl, rfl⟩ <;> rfl

/-- The decoded bits at both polarities are the printed ones. -/
theorem decodeSymbol_rows (pol : Polarity) :
    decodeSymbol pol 0#2 = (if pol = .inverted then ⟨true, false, true, 1⟩
        else ⟨false, false, true, 1⟩) ∧
      decodeSymbol pol 1#2 = (if pol = .inverted then ⟨true, true, true, 0⟩
        else ⟨false, true, true, 0⟩) ∧
      decodeSymbol pol 2#2 = (if pol = .inverted then ⟨false, true, false, 3⟩
        else ⟨true, true, false, 3⟩) ∧
      decodeSymbol pol 3#2 = (if pol = .inverted then ⟨false, false, false, 2⟩
        else ⟨true, false, false, 2⟩) := by
  cases pol <;> decide

/-- Settles O54: each row leaves its symbol's bits in the latch. -/
theorem symbolRowsDecodeFourBits : Obligations.SymbolRowsDecodeFourBits := by
  intro s i n v h
  obtain ⟨h0, h1, h2, h3⟩ := decodeSymbol_rows s.sync.polarity
  simp only [symbolRows, List.mem_cons, List.not_mem_nil, or_false, Prod.mk.injEq] at h
  rcases h with ⟨rfl, rfl, rfl⟩ | ⟨rfl, rfl, rfl⟩ | ⟨rfl, rfl, rfl⟩ | ⟨rfl, rfl, rfl⟩
  · rw [← h0]
    rfl
  · rw [← h1]
    rfl
  · rw [← h2]
    rfl
  · rw [← h3]
    rfl

end Sys2Proof.Proofs.Commands
end

section
/-! PROOFS. What one instruction can do, said once (`exec_effect`), with the statements over every
instruction that are read off it. -/

namespace Sys2Proof.Proofs.Inversion

open Sys2Proof.Machine Sys2Proof.Safety Sys2Proof.Proofs.SymSync1 Sys2Proof.Proofs.HostCommands
  Sys2Proof.Proofs.Commands

/-! ### The outcomes of `exec` -/

/-- What an instruction that answers a next state did. -/
inductive Effect : Instr → State → State → Prop where
  | configures {f : Word} {s : State} (hf : f ≠ 0#32) : Effect (.cfg f) s (configure f s)
  | resets {s : State} : Effect .rst s (beginResponse (resetRegisters s))
  | samples {v : Word} {s t : State} {c : Bool} (hc : s.configured = true)
      (h : demodulate Config.rnd (sampleValue v) (beginResponse s) = .ok (t, c)) :
      Effect (.smp v) s (setValue (sampleValueBits c t) t)
  | symbol {q : Symbol} {s t : State} (hc : s.configured = true)
      (h : symbolHandler q (beginResponse s) = .ok t) :
      Effect (.sym q) s (setValue (symbolValueBits t) t)
  | answers {i : Instr} {s : State} (v : Word) (aux : BitVec 3) : Effect i s (answer v aux s)
  | fails {i : Instr} {s : State} (e : ErrorCode) (v : Word) : Effect i s (errorResponse e v s)
  | records {i : Instr} {s : State} (c : BitVec 16) (b : Baud) (l : Levels)
      (hi : isHostCommand i = false) : Effect i s (recordMode c b l (beginResponse s))
  | latches {i : Instr} {s : State} (q : Symbol)
      (hi : i ∈ [Instr.symbol0, .symbol1, .symbol2, .symbol3]) :
      Effect i s { beginResponse s with symbolIn := decodeSymbol s.sync.polarity q }
  | handles {i : Instr} {s t : State} (st : FrameState) (hi : isHostCommand i = false)
      (h : handlerOf st s.symbolIn (beginResponse s) = .ok t) : Effect i s t

/-- An outcome known is the state answered. -/
theorem effect_of_eq {i : Instr} {s t u : State} {o : Host.Outcome State Fault Refusal}
    (h : o = .next t) (hu : o = .next u) (he : Effect i s u) : Effect i s t := by
  rw [hu, Host.Outcome.next.injEq] at h
  exact h ▸ he

theorem exec_smp_of_ok {v : Word} {s t : State} {c : Bool} (hc : s.configured = true)
    (hv : sampleIsFinite v = true)
    (h : demodulate Config.rnd (sampleValue v) (beginResponse s) = .ok (t, c)) :
    exec (.smp v) s = .next (setValue (sampleValueBits c t) t) := by
  change execSmp v s = _
  unfold execSmp
  rw [if_neg (by simp [hc]), if_neg (by simp [hv]), h]

theorem exec_smp_of_error {v : Word} {s : State} {e : Fault} (hc : s.configured = true)
    (hv : sampleIsFinite v = true)
    (h : demodulate Config.rnd (sampleValue v) (beginResponse s) = .error e) :
    exec (.smp v) s = .fault e := by
  change execSmp v s = _
  unfold execSmp
  rw [if_neg (by simp [hc]), if_neg (by simp [hv]), h]

theorem exec_smp_next {v : Word} {s t : State} (h : exec (.smp v) s = .next t) :
    Effect (.smp v) s t := by
  by_cases hc : s.configured = true
  · by_cases hv : sampleIsFinite v = true
    · cases hd : demodulate Config.rnd (sampleValue v) (beginResponse s) with
      | ok r =>
        exact effect_of_eq h (exec_smp_of_ok (t := r.1) (c := r.2) hc hv hd) (.samples hc hd)
      | error e =>
        rw [exec_smp_of_error hc hv hd] at h
        cases h
    · rw [exec_smp_notFinite hc (sampleIsFinite_eq_false.1 (by simpa using hv))] at h
      exact effect_of_eq h rfl (.fails ..)
  · rw [exec_smp_unconfigured (by simpa using hc)] at h
    exact effect_of_eq h rfl (.fails ..)

theorem exec_sym_next {q : Symbol} {s t : State} (h : exec (.sym q) s = .next t) :
    Effect (.sym q) s t := by
  by_cases hc : s.configured = true
  · rw [exec_sym_of_configured hc] at h
    obtain ⟨u, hu, rfl⟩ := complete_eq_next.1 h
    exact .symbol hc hu
  · rw [exec_sym_unconfigured (by simpa using hc)] at h
    exact effect_of_eq h rfl (.fails ..)

theorem runHandler_next {i : Instr} {s t : State} {st : FrameState} (hi : isHostCommand i = false)
    (h : runHandler st s = .next t) : Effect i s t := by
  obtain ⟨u, hu, rfl⟩ := complete_eq_next.1 h
  exact .handles st hi hu

/-- Every instruction that answers a next state did one of these things. -/
theorem exec_effect {i : Instr} {s t : State} (h : exec i s = .next t) : Effect i s t := by
  cases i with
  | cfg f =>
    rw [exec_cfg] at h
    split at h
    · exact effect_of_eq h rfl (.fails ..)
    · rename_i hf
      exact effect_of_eq h rfl (.configures hf)
  | rst => exact effect_of_eq h (exec_rst s) .resets
  | smp v => exact exec_smp_next h
  | sym q => exact exec_sym_next h
  | bchfix w =>
    cases hw : fixErrors w with
    | some r => exact effect_of_eq h (exec_bchfix_some (c := r.1) (n := r.2) s hw) (.answers ..)
    | none => exact effect_of_eq h (exec_bchfix_none s hw) (.fails ..)
  | bchenc d => exact effect_of_eq h (u := answer (bchEncode d) 0 s) rfl (.answers ..)
  | rdpb p k =>
    rw [exec_rdpb] at h
    split at h
    · exact effect_of_eq h rfl (.answers ..)
    · exact effect_of_eq h rfl (.fails ..)
  | rdcsr n =>
    cases hn : csrRead n s with
    | some v => exact effect_of_eq h (exec_rdcsr_some hn) (.answers ..)
    | none => exact effect_of_eq h (exec_rdcsr_none hn) (.fails ..)
  | illegal0 | illegal9 | illegalA | illegalB | illegalC | illegalD | illegalE | illegalF =>
    exact effect_of_eq h rfl (.fails ..)
  | syncCode870C c | syncCodeB068 c | syncCode7B18 c | syncCodeDEA0 c | syncCode4C7C c
  | syncCodeUnknown c =>
    exact effect_of_eq h rfl (.records _ _ _ rfl)
  | symbol0 | symbol1 | symbol2 | symbol3 =>
    exact effect_of_eq h rfl (.latches _ (by simp))
  | stateSync1 => exact runHandler_next (st := .sync1) rfl h
  | stateFiw => exact runHandler_next (st := .fiw) rfl h
  | stateSync2 => exact runHandler_next (st := .sync2) rfl h
  | stateData => exact runHandler_next (st := .data) rfl h

/-! ### The collector reads and writes its own sub-block -/

/-- The state with another collector. -/
def withColl (c : Collector) (s : State) : State := { s with coll := c }

/-- The operation writes the collector only, and what it writes follows from the collector and the
synchronizer. -/
def CollectorOnly (f : State → State) : Prop :=
  ∀ s s' : State, s'.sync = s.sync → s'.coll = s.coll → f s' = withColl (f s).coll s'

theorem collectorOnly_comp {f g : State → State} (hf : CollectorOnly f) (hg : CollectorOnly g) :
    CollectorOnly fun s => g (f s) := by
  intro s s' hsync hcoll
  have hs := hf s s rfl rfl
  have hs' := hf s s' hsync hcoll
  have hsync' : (f s').sync = (f s).sync := by rw [hs', hs]; exact hsync
  have hcoll' : (f s').coll = (f s).coll := by rw [hs']; rfl
  calc g (f s')
    _ = withColl (g (f s)).coll (f s') := hg (f s) (f s') hsync' hcoll'
    _ = withColl (g (f s)).coll s' := by rw [hs']; rfl

theorem collectorOnly_pinToggle : CollectorOnly pinToggle := by
  intro s s' hsync hcoll
  unfold pinToggle
  rw [hsync]
  cases s.sync.baud <;> simp [setToggle, withColl, ← hcoll]

theorem collectorOnly_shiftIntoWord (p : Phase) (i : BitVec 7) (bit : Bool) :
    CollectorOnly (shiftIntoWord p i bit) := by
  intro s s' _ hcoll
  simp [shiftIntoWord, pbWrite, pbRead, withColl, hcoll]

theorem collectorOnly_writeBits (d : SymbolBits) : CollectorOnly (writeBits d) := by
  intro s s' hsync hcoll
  unfold writeBits
  rw [hsync, hcoll]
  simp only
  split
  · exact collectorOnly_shiftIntoWord _ _ _ s s' hsync hcoll
  · exact collectorOnly_comp (collectorOnly_shiftIntoWord _ _ _) (collectorOnly_shiftIntoWord _ _ _)
      s s' hsync hcoll
  · exact collectorOnly_shiftIntoWord _ _ _ s s' hsync hcoll
  · exact collectorOnly_comp (collectorOnly_shiftIntoWord _ _ _) (collectorOnly_shiftIntoWord _ _ _)
      s s' hsync hcoll

theorem collectorOnly_countIdleWord (i : BitVec 7) (p : Phase) :
    CollectorOnly fun s => countIdleWord i s p := by
  intro s s' _ hcoll
  have hread : pbRead p i s' = pbRead p i s := by
    unfold pbRead
    rw [hcoll]
  change countIdleWord i s' p = withColl (countIdleWord i s p).coll s'
  unfold countIdleWord
  rw [hread]
  cases isIdleWord (pbRead p i s) <;> simp [withColl, ← hcoll]

theorem collectorOnly_countIdleWords (i : BitVec 7) (l : List Phase) :
    CollectorOnly fun s => l.foldl (countIdleWord i) s := by
  induction l with
  | nil =>
    intro s s' _ hcoll
    simp [withColl, ← hcoll]
  | cons p rest ih => exact collectorOnly_comp (collectorOnly_countIdleWord i p) ih

theorem collectorOnly_checkIdle : CollectorOnly checkIdle := by
  intro s s' hsync hcoll
  unfold checkIdle
  rw [hsync, hcoll]
  split_ifs
  · exact collectorOnly_countIdleWords _ _ s s' hsync hcoll
  · rw [← hcoll]
    rfl

theorem collectorOnly_updateToggle : CollectorOnly updateToggle := by
  intro s s' hsync hcoll
  unfold updateToggle
  rw [hsync, hcoll]
  split <;> simp [setToggle, withColl, ← hcoll]

theorem collectorOnly_advanceBitCounter : CollectorOnly advanceBitCounter := by
  intro s s' hsync hcoll
  unfold advanceBitCounter
  rw [hsync, hcoll]
  split_ifs
  · rw [← hsync]
    rfl
  · rw [← hcoll]
    rfl

theorem collectorOnly_collectSteps (d : SymbolBits) : CollectorOnly (collectSteps d) := by
  have hwrite := collectorOnly_comp collectorOnly_pinToggle (collectorOnly_writeBits d)
  have hcheck := collectorOnly_comp hwrite collectorOnly_checkIdle
  have htoggle := collectorOnly_comp hcheck collectorOnly_updateToggle
  have hall := collectorOnly_comp htoggle collectorOnly_advanceBitCounter
  exact hall

/-! ### What a handler reads and writes -/

/-- Everything a handler writes: the registers of the three sub-blocks behind the demodulator, the
demodulator's baud if it is set, the state gone to and the events reported. -/
structure HandlerWrites where
  sync : Sync
  frame : Frame
  coll : Collector
  baud : Option Baud
  next : FrameState
  events : List Event

/-- The writes of a handler of state `st`; `state` is written when the handler leaves `st`. -/
def HandlerWrites.apply (w : HandlerWrites) (st : FrameState) (s : State) : State :=
  { s with
    sync := w.sync
    frame := { w.frame with state := if w.next = st then s.frame.state else w.next }
    coll := w.coll
    demod := { s.demod with baud := w.baud.getD s.demod.baud }
    response := { s.response with events := s.response.events ++ w.events } }

section
variable (w : HandlerWrites) (st : FrameState) (s : State)

@[simp] theorem apply_configured : (w.apply st s).configured = s.configured := rfl
@[simp] theorem apply_sampleFreq : (w.apply st s).sampleFreq = s.sampleFreq := rfl
@[simp] theorem apply_pending : (w.apply st s).pending = s.pending := rfl
@[simp] theorem apply_symbolIn : (w.apply st s).symbolIn = s.symbolIn := rfl
@[simp] theorem apply_sync : (w.apply st s).sync = w.sync := rfl
@[simp] theorem apply_coll : (w.apply st s).coll = w.coll := rfl
@[simp] theorem apply_frame :
    (w.apply st s).frame =
      { w.frame with state := if w.next = st then s.frame.state else w.next } :=
  rfl
@[simp] theorem apply_demod :
    (w.apply st s).demod = { s.demod with baud := w.baud.getD s.demod.baud } :=
  rfl
@[simp] theorem apply_response :
    (w.apply st s).response =
      { s.response with events := s.response.events ++ w.events } :=
  rfl

end

/-- The state `c` with the registers a handler reads as `s` has them; `state`, which selects the
handler, is `c`'s. -/
def withInputs (s c : State) : State :=
  { c with
    sync := s.sync
    frame := { s.frame with state := c.frame.state }
    coll := s.coll }

theorem withInputs_self (s : State) : withInputs s s = s := rfl

theorem handlerOf_cases {st : FrameState} {d : SymbolBits} {s t : State}
    (h : handlerOf st d s = .ok t) :
    (st = .sync1 ∧ t = handleSync1 d s) ∨ (st = .fiw ∧ t = handleFiw d s) ∨
      (st = .sync2 ∧ t = handleSync2 s) ∨
      (st = .data ∧ pbIndexExists (deinterleaveIndex s.coll.dataBitCounter) = true ∧
        t = countData (collectSteps d s)) := by
  cases st with
  | sync1 => exact Or.inl ⟨rfl, (Except.ok.inj h).symm⟩
  | fiw => exact Or.inr (Or.inl ⟨rfl, (Except.ok.inj h).symm⟩)
  | sync2 => exact Or.inr (Or.inr (Or.inl ⟨rfl, (Except.ok.inj h).symm⟩))
  | data => exact Or.inr (Or.inr (Or.inr ⟨rfl, handleData_eq_ok.1 h⟩))

theorem handleSync1_writes (d : SymbolBits) (s : State) :
    ∃ w : HandlerWrites, Transition .sync1 w.next w.events ∧
      ∀ c, handleSync1 d (withInputs s c) = w.apply .sync1 c := by
  rcases handleSync1_cases d s with ⟨pol, b, hm, -⟩ | ⟨hm, -⟩
  · refine ⟨⟨(recordMatch pol b (shiftSyncBuf d.syncBit s)).sync,
      { s.frame with fiwCount := 0#6, fiwRaw := 0#32 }, s.coll, none, .fiw,
      [syncFoundEvent b (recordMatch pol b (shiftSyncBuf d.syncBit s))]⟩, .syncFound ..,
      fun c => ?_⟩
    rw [handleSync1_of_match (s := withInputs s c) hm]
    rfl
  · refine ⟨⟨(shiftSyncBuf d.syncBit s).sync, s.frame, s.coll, none, .sync1, []⟩, .stay _,
      fun c => ?_⟩
    rw [handleSync1_of_no_match (s := withInputs s c) hm]
    simp [HandlerWrites.apply, shiftSyncBuf, withInputs]

theorem checkFiw_of_none {s : State} (h : fixErrors s.frame.fiwRaw = none) :
    checkFiw s = rejectFiw .uncorrectable s.frame.fiwRaw s := by
  unfold checkFiw
  rw [h]

theorem checkFiw_of_some {s : State} {w : Word} {n : Nat}
    (h : fixErrors s.frame.fiwRaw = some (w, n)) :
    checkFiw s =
      if fiwChecksumPasses w = true then acceptFiw w n (setFiwRaw w s)
      else rejectFiw .checksum w (setFiwRaw w s) := by
  unfold checkFiw
  rw [h]

theorem handleFiw_writes (d : SymbolBits) (s : State) :
    ∃ w : HandlerWrites, Transition .fiw w.next w.events ∧
      ∀ c, handleFiw d (withInputs s c) = w.apply .fiw c := by
  by_cases h48 : (shiftFiw d s).frame.fiwCount.toNat = 48
  · have hfull : ∀ c, handleFiw d (withInputs s c) = checkFiw (shiftFiw d (withInputs s c)) :=
      fun c => handleFiw_full h48
    simp only [hfull]
    cases hfix : fixErrors (shiftFiw d s).frame.fiwRaw with
    | none =>
      refine ⟨⟨s.sync, (shiftFiw d s).frame, s.coll, none, .sync1,
        [.fiwRejected .uncorrectable (shiftFiw d s).frame.fiwRaw]⟩, .fiwRejected .., fun c => ?_⟩
      rw [checkFiw_of_none (s := shiftFiw d (withInputs s c)) hfix]
      rfl
    | some r =>
      cases hpass : fiwChecksumPasses r.1 with
      | false =>
        refine ⟨⟨s.sync, (setFiwRaw r.1 (shiftFiw d s)).frame, s.coll, none, .sync1,
          [.fiwRejected .checksum r.1]⟩, .fiwRejected .., fun c => ?_⟩
        rw [checkFiw_of_some (s := shiftFiw d (withInputs s c)) (n := r.2) hfix,
          if_neg (by simp [hpass])]
        rfl
      | true =>
        refine ⟨⟨s.sync, (acceptFiw r.1 r.2 (setFiwRaw r.1 (shiftFiw d s))).frame, s.coll,
          some s.sync.baud, .sync2, [.fiwAccepted (fiwCycle r.1) (fiwFrame r.1) r.1 r.2]⟩,
          .fiwAccepted .., fun c => ?_⟩
        rw [checkFiw_of_some (s := shiftFiw d (withInputs s c)) (n := r.2) hfix, if_pos hpass]
        rfl
  · refine ⟨⟨s.sync, (shiftFiw d s).frame, s.coll, none, .fiw, []⟩, .stay _, fun c => ?_⟩
    rw [handleFiw_below (s := withInputs s c) h48]
    simp [HandlerWrites.apply, shiftFiw, withInputs]

theorem handleSync2_at_bound {s : State}
    (h : (s.frame.sync2Count + 1#7).toNat = sync2Symbols s.sync.baud) :
    handleSync2 s = startData (countSync2 s) :=
  (handleSync2_eq s).trans (if_pos h)

theorem handleSync2_off_bound {s : State}
    (h : (s.frame.sync2Count + 1#7).toNat ≠ sync2Symbols s.sync.baud) :
    handleSync2 s = countSync2 s :=
  (handleSync2_eq s).trans (if_neg h)

theorem handleSync2_writes (s : State) :
    ∃ w : HandlerWrites, Transition .sync2 w.next w.events ∧
      ∀ c, handleSync2 (withInputs s c) = w.apply .sync2 c := by
  by_cases hend : (s.frame.sync2Count + 1#7).toNat = sync2Symbols s.sync.baud
  · refine ⟨⟨s.sync, (startData (countSync2 s)).frame, Collector.reset, none, .data, []⟩,
      .sync2Ends, fun c => ?_⟩
    rw [handleSync2_at_bound (s := withInputs s c) hend]
    simp [HandlerWrites.apply, countSync2, withInputs, startData]
  · refine ⟨⟨s.sync, (countSync2 s).frame, s.coll, none, .sync2, []⟩, .stay _, fun c => ?_⟩
    rw [handleSync2_off_bound (s := withInputs s c) hend]
    simp [HandlerWrites.apply, countSync2, withInputs]

/-- Whether the symbol just collected ends the frame (`45_state_machine.md` R247). -/
def EndsFrame (s : State) : Prop :=
  (s.frame.dataCount + 1#13).toNat = dataSymbols s.sync.baud ∨ allActiveIdle s = true

theorem countData_of_end {s : State} (h : EndsFrame s) :
    countData s =
      endFrame (allActiveIdle s)
        (decide ((s.frame.dataCount + 1#13).toNat = dataSymbols s.sync.baud))
        (countDataSymbol s) := by
  rcases countData_cases s with ⟨-, hfull, hidle⟩ | ⟨he, -⟩
  · rcases h with h | h
    · exact absurd h hfull
    · exact absurd (h.symm.trans hidle) (by decide)
  · exact he

theorem countData_of_not_end {s : State} (h : ¬EndsFrame s) : countData s = countDataSymbol s := by
  rcases countData_cases s with ⟨he, -⟩ | ⟨-, hend⟩
  · exact he
  · exact absurd hend h

theorem handleData_writes (d : SymbolBits) (s : State) :
    ∃ w : HandlerWrites, Transition .data w.next w.events ∧
      ∀ c, countData (collectSteps d (withInputs s c)) = w.apply .data c := by
  have hstep : ∀ c, collectSteps d (withInputs s c) =
      withColl (collectSteps d s).coll (withInputs s c) :=
    fun c => collectorOnly_collectSteps d s (withInputs s c) rfl rfl
  simp only [hstep]
  by_cases hend : EndsFrame (withColl (collectSteps d s).coll s)
  · refine ⟨⟨s.sync, (countDataSymbol s).frame, (collectSteps d s).coll, some .b1600, .sync1,
      [frameReadyEvent (allActiveIdle (withColl (collectSteps d s).coll s))
        (decide ((s.frame.dataCount + 1#13).toNat = dataSymbols s.sync.baud)) s]⟩, .frameReady ..,
      fun c => ?_⟩
    rw [countData_of_end (s := withColl (collectSteps d s).coll (withInputs s c)) hend]
    rfl
  · refine ⟨⟨s.sync, (countDataSymbol s).frame, (collectSteps d s).coll, none, .data, []⟩, .stay _,
      fun c => ?_⟩
    rw [countData_of_not_end (s := withColl (collectSteps d s).coll (withInputs s c)) hend]
    simp [HandlerWrites.apply, countDataSymbol, withInputs, withColl]

/-- A handler's writes follow from its bits and its inputs, make one of its state's transitions and
report that transition's events. -/
theorem handlerOf_writes {st : FrameState} {d : SymbolBits} {s t : State}
    (h : handlerOf st d s = .ok t) :
    ∃ w : HandlerWrites, Transition st w.next w.events ∧ t = w.apply st s ∧
      ∀ c, handlerOf st d (withInputs s c) = .ok (w.apply st c) := by
  have key : ∀ {f : State → State} (hf : ∃ w : HandlerWrites, Transition st w.next w.events ∧
      ∀ c, f (withInputs s c) = w.apply st c),
      (∀ c, handlerOf st d (withInputs s c) = .ok (f (withInputs s c))) →
      ∃ w : HandlerWrites, Transition st w.next w.events ∧ t = w.apply st s ∧
        ∀ c, handlerOf st d (withInputs s c) = .ok (w.apply st c) := by
    rintro f ⟨w, htr, hw⟩ hrun
    refine ⟨w, htr, ?_, fun c => by rw [hrun, hw]⟩
    rw [← hw s, withInputs_self]
    exact Except.ok.inj (h.symm.trans (hrun s))
  rcases handlerOf_cases h with ⟨rfl, -⟩ | ⟨rfl, -⟩ | ⟨rfl, -⟩ | ⟨rfl, hi, -⟩
  · exact key (handleSync1_writes d s) fun c => rfl
  · exact key (handleFiw_writes d s) fun c => rfl
  · exact key (handleSync2_writes s) fun c => rfl
  · exact key (f := fun u => countData (collectSteps d u)) (handleData_writes d s)
      fun c => handleData_eq_ok.2 ⟨hi, rfl⟩

end Sys2Proof.Proofs.Inversion
end

section
/-! PROOFS. One SMP, register by register (`42_demodulator.md` R150 to R163): the machine's sample
steps are the closed expressions of `Safety`, and the command has three outcomes: no symbol
completes, one completes while locked and is forwarded, or one goes to the lock detector. -/

namespace Sys2Proof.Proofs.Sample

open Sys2Proof.Machine Sys2Proof.Safety Sys2Proof.Proofs.Commands Sys2Proof.Proofs.Inversion

/-! ### The machine's functions, in the terms of the statements -/

/-- The test of step 5 is a change of sign (`42_demodulator.md` R155). -/
theorem isCrossing_eq_signChanges (v : Word) (s : State) :
    isCrossing s.demod.lastSample (correctedSample v s) = signChanges v s := by
  unfold isCrossing signChanges
  by_cases h1 : s.demod.lastSample < 0 <;> by_cases h2 : correctedSample v s < 0 <;>
    simp [h1, h2, not_lt.1, not_le.2]

theorem sampleTiming_inMid (s : State) : (sampleTiming s).inMid = inMiddle s := by
  simp only [sampleTiming, inMidWindow, inMiddle, phaseMaxOf, periodLength]
  exact (Bool.decide_and _ _).symm

/-- The correction of step 5 (`42_demodulator.md` R155). -/
theorem correctedPhase_eq_phaseCorrected {v : Word} {s : State} (h : signChanges v s = true) :
    correctedPhase (sampleTiming s) s.demod.locked = phaseCorrected v s := by
  unfold correctedPhase phaseCorrected
  by_cases hf : 2 * s.demod.phase < periodLength s
  · have hfirst : (sampleTiming s).firstHalf = true := decide_eq_true hf
    simp only [h, hf, hfirst, if_true]
    rfl
  · have hfirst : (sampleTiming s).firstHalf = false := decide_eq_false hf
    simp only [h, hf, hfirst, if_true, if_false, Bool.false_eq_true]
    rfl

theorem phaseCorrected_of_no_crossing {v : Word} {s : State} (h : signChanges v s = false) :
    phaseCorrected v s = s.demod.phase := by
  simp [phaseCorrected, h]

/-- The slicer's level (`42_demodulator.md` R154). -/
theorem sliceLevel_eq_levelOf (v : Word) (s : State) :
    sliceLevel Config.rnd (envelopeAfter v s) (correctedSample v s) = levelOf v s := by
  unfold sliceLevel levelOf
  simp only [numMul, numNeg, Config.rnd, Config.sliceThreshold]
  split_ifs <;> first | rfl | grind

/-! ### Steps 2 and 3 -/

/-- `envelope_sum` after step 3 (`42_demodulator.md` R153). -/
def envelopeSumAfter (v : Word) (s : State) : Rat :=
  if s.demod.locked = false then 0
  else if s.frame.state = .sync1 then s.demod.envelopeSum + |correctedSample v s|
  else s.demod.envelopeSum

/-- `envelope_count` after step 3 (`42_demodulator.md` R153). -/
def envelopeCountAfter (s : State) : Nat :=
  if s.demod.locked = false then 0
  else if s.frame.state = .sync1 then s.demod.envelopeCount + 1
  else s.demod.envelopeCount

/-- `nonconsec` as step 3 leaves it (`42_demodulator.md` R153). -/
def crossingsBefore (s : State) : BitVec 8 :=
  if s.demod.locked = true then s.demod.nonconsec else 0#8

/-- The state after steps 2 and 3. -/
def enveloped (v : Word) (s : State) : State :=
  { s with
    frame := if s.demod.locked = true then s.frame else { s.frame with state := .sync1 }
    demod :=
      { s.demod with
        baud := if s.demod.locked = true then s.demod.baud else .b1600
        sampleCount := s.demod.sampleCount + 1
        zeroOffset := offsetAfter v s
        envelope := envelopeAfter v s
        envelopeSum := envelopeSumAfter v s
        envelopeCount := envelopeCountAfter s
        timeout := if s.demod.locked = true then s.demod.timeout else 0#8
        nonconsec := crossingsBefore s } }

theorem trackEnvelope_eq (v : Word) (s : State) :
    trackEnvelope Config.rnd (correctedSample v s) (filterDc Config.rnd (sampleValue v) s) =
      enveloped v s := by
  cases hl : s.demod.locked with
  | false =>
    rw [trackEnvelope_unlocked (s := filterDc Config.rnd (sampleValue v) s) hl]
    have hnot : ¬s.demod.locked = true := by simp [hl]
    simp only [enveloped, envelopeAfter, envelopeSumAfter, envelopeCountAfter, crossingsBefore,
      if_pos hl, if_neg hnot]
    rfl
  | true =>
    have hnot : ¬s.demod.locked = false := by simp [hl]
    have hlock : (filterDc Config.rnd (sampleValue v) s).demod.locked = true := hl
    unfold trackEnvelope
    rw [if_pos hlock]
    by_cases hst : s.frame.state = .sync1
    · have hst' : (filterDc Config.rnd (sampleValue v) s).frame.state = .sync1 := hst
      rw [if_pos hst']
      simp only [enveloped, envelopeAfter, envelopeSumAfter, envelopeCountAfter, crossingsBefore,
        if_pos hl, if_neg hnot, if_pos hst]
      have hcount : ((s.demod.envelopeCount + 1 : Nat) : Rat) = (s.demod.envelopeCount : Rat) + 1 :=
        Nat.cast_succ _
      rw [← hcount]
      rfl
    · have hst' : ¬(filterDc Config.rnd (sampleValue v) s).frame.state = .sync1 := hst
      rw [if_neg hst']
      simp only [enveloped, envelopeAfter, envelopeSumAfter, envelopeCountAfter, crossingsBefore,
        if_pos hl, if_neg hnot, if_neg hst]
      rfl

/-! ### Steps 4 and 5 -/

/-- The state after steps 2 to 4. -/
def sliced (v : Word) (s : State) : State :=
  { enveloped v s with demod := { (enveloped v s).demod with symCounts := countsAfter v s } }

theorem countLevel_eq (v : Word) (s : State) :
    countLevel Config.rnd (sampleTiming s) (correctedSample v s) (enveloped v s) = sliced v s := by
  have hslice : sliceLevel Config.rnd (enveloped v s).demod.envelope (correctedSample v s) =
      levelOf v s := sliceLevel_eq_levelOf v s
  unfold countLevel
  rw [sampleTiming_inMid]
  cases hm : inMiddle s with
  | false => simp [sliced, countsAfter, hm, enveloped]
  | true =>
    simp only [hslice, if_true, sliced, countsAfter, hm]
    rfl

/-- `nonconsec` after step 5, at its width (`42_demodulator.md` R156). -/
def crossingsCounted (v : Word) (s : State) : BitVec 8 :=
  if signChanges v s = true then (if inMiddle s = true then crossingsBefore s + 1#8 else 0#8)
  else crossingsBefore s

/-- Step 5 drops lock, with the count at its width (`42_demodulator.md` R156). -/
def crossingsDrop (v : Word) (s : State) : Bool :=
  s.demod.locked && (signChanges v s && (inMiddle s && decide (20 ≤ (crossingsCounted v s).toNat)))

/-- The state after steps 2 to 5. -/
def stepped (v : Word) (s : State) : State :=
  { sliced v s with
    demod :=
      { (sliced v s).demod with
        phase := phaseCorrected v s
        lastSample := correctedSample v s
        locked := s.demod.locked && !crossingsDrop v s
        timeout :=
          if s.demod.locked = true ∧ signChanges v s = false then s.demod.timeout else 0#8
        nonconsec := crossingsCounted v s }
    response :=
      { s.response with
        events :=
          s.response.events ++ if crossingsDrop v s = true then [.lockLost .crossings] else [] } }

theorem trackCrossing_eq (v : Word) (s : State) :
    trackCrossing (sampleTiming s) (correctedSample v s) (sliced v s) = stepped v s := by
  have hcross : isCrossing (sliced v s).demod.lastSample (correctedSample v s) = signChanges v s :=
    isCrossing_eq_signChanges v s
  rcases trackCrossing_cases (sampleTiming s) (correctedSample v s) (sliced v s) with
    ⟨hc, h⟩ | ⟨hc, hm, h⟩ | ⟨hc, hm, hn, h⟩ | ⟨hc, hm, hl, hn, h⟩ <;>
    rw [h] <;> rw [hcross] at hc
  · have hdrop : crossingsDrop v s = false := by simp [crossingsDrop, hc]
    simp [stepped, hdrop, hc, crossingsCounted, phaseCorrected_of_no_crossing hc, sliced, enveloped]
  · rw [sampleTiming_inMid] at hm
    have hdrop : crossingsDrop v s = false := by simp [crossingsDrop, hm]
    simp [stepped, hdrop, hc, hm, crossingsCounted, correctedPhase_eq_phaseCorrected hc, sliced,
      enveloped]
  · rw [sampleTiming_inMid] at hm
    have hdrop : crossingsDrop v s = false := by
      simp only [crossingsDrop, crossingsCounted, hc, hm, if_true, Bool.true_and,
        Bool.and_eq_false_iff, decide_eq_false_iff_not, not_le]
      cases hl : s.demod.locked
      · exact Or.inl rfl
      · exact Or.inr (hn hl)
    simp [stepped, hdrop, hc, hm, crossingsCounted, correctedPhase_eq_phaseCorrected hc, sliced,
      enveloped]
  · rw [sampleTiming_inMid] at hm
    have hl' : s.demod.locked = true := hl
    have hn' : 20 ≤ (crossingsBefore s + 1#8).toNat := hn
    have hdrop : crossingsDrop v s = true := by
      simp only [crossingsDrop, crossingsCounted, hc, hm, hl', if_true, Bool.true_and,
        decide_eq_true hn']
    simp [stepped, hdrop, hc, hm, crossingsCounted, correctedPhase_eq_phaseCorrected hc, sliced,
      enveloped, emit]

/-- Steps 2 to 5 of one sample, in closed form (`42_demodulator.md` R152 to R156). -/
theorem sampleSteps_eq (v : Word) (s : State) :
    sampleSteps Config.rnd (sampleTiming s) (sampleValue v) s = stepped v s := by
  rw [← trackCrossing_eq, ← countLevel_eq, ← trackEnvelope_eq]
  rfl

/-! ### Step 6 -/

/-- The state after steps 2 to 6. -/
def sampled (v : Word) (s : State) : State := advancePhase (sampleTiming s) (stepped v s)

theorem phaseRate_eq_phaseStep (s : State) : (sampleTiming s).phaseRate = phaseStep s := by
  simp only [sampleTiming, phaseStep, phaseRateOf]
  cases s.demod.baud <;> rfl

/-- The period completes when the statements say the symbol ends (`42_demodulator.md` R157). -/
theorem periodCompletes_eq_symbolEnds (v : Word) (s : State) :
    periodCompletes (sampleTiming s) (stepped v s) = symbolEnds v s := by
  unfold periodCompletes
  rw [phaseRate_eq_phaseStep]
  rfl

theorem sampled_phase (v : Word) (s : State) :
    (sampled v s).demod.phase =
      phaseCorrected v s + phaseStep s - (if symbolEnds v s = true then periodLength s else 0) := by
  have hphase : (sampled v s).demod.phase =
      if periodLength s < phaseCorrected v s + phaseStep s then
        phaseCorrected v s + phaseStep s - periodLength s
      else phaseCorrected v s + phaseStep s := by
    rw [← phaseRate_eq_phaseStep]
    rfl
  rw [hphase]
  by_cases h : periodLength s < phaseCorrected v s + phaseStep s <;> simp [symbolEnds, h]

/-! ### The symbol-complete sequence -/

/-- The state with the symbol decided and the rate estimated (`42_demodulator.md` R158, R159). -/
def decided (v : Word) (s : State) : State :=
  estimateRate Config.rnd (decideSymbol (sampled v s))

/-- The timeout drops a held lock (`42_demodulator.md` R162). -/
def timeoutDrops (s : State) : Bool :=
  s.demod.locked && decide (100 < (s.demod.timeout + 1#8).toNat)

/-- The state with its timeout counted (`42_demodulator.md` R162). -/
def timeoutCounted (s : State) : State :=
  { s with
    demod :=
      { s.demod with
        timeout := s.demod.timeout + 1#8
        locked := s.demod.locked && !timeoutDrops s }
    response :=
      { s.response with
        events :=
          s.response.events ++ if timeoutDrops s = true then [.lockLost .timeout] else [] } }

theorem countTimeout_eq (s : State) : countTimeout s = timeoutCounted s := by
  rcases countTimeout_cases s with ⟨h, hd⟩ | ⟨h, h100, hl⟩ <;> rw [h]
  · have hdrop : timeoutDrops s = false := by
      simp only [timeoutDrops, Bool.and_eq_false_iff, decide_eq_false_iff_not, not_lt]
      exact hd.symm
    simp [timeoutCounted, hdrop, incrementTimeout]
  · have hdrop : timeoutDrops s = true := by
      simp only [timeoutDrops, hl, decide_eq_true h100, Bool.and_true]
    simp [timeoutCounted, hdrop, hl, incrementTimeout, dropLock, emit]

theorem timeoutCounted_of_not_drops {s : State} (h : timeoutDrops s = false) :
    timeoutCounted s = incrementTimeout s := by
  simp [timeoutCounted, h, incrementTimeout]

/-! ### What the symbol-complete sequence leaves in each register -/

section
variable (s : State)

@[simp] theorem shiftLockBuffer_sync : (shiftLockBuffer s).sync = s.sync := rfl
@[simp] theorem shiftLockBuffer_frame : (shiftLockBuffer s).frame = s.frame := rfl
@[simp] theorem shiftLockBuffer_coll : (shiftLockBuffer s).coll = s.coll := rfl
@[simp] theorem shiftLockBuffer_demod :
    (shiftLockBuffer s).demod =
      { s.demod with
        lockBuffer := shiftInPair s.demod.lockBuffer (symbolLockPair s.demod.modalSymbol) } :=
  rfl
@[simp] theorem shiftLockBuffer_response : (shiftLockBuffer s).response = s.response := rfl

@[simp] theorem acquireLock_sync : (acquireLock s).sync = s.sync := rfl
@[simp] theorem acquireLock_frame : (acquireLock s).frame = s.frame := rfl
@[simp] theorem acquireLock_coll : (acquireLock s).coll = s.coll := rfl
@[simp] theorem acquireLock_demod :
    (acquireLock s).demod =
      { s.demod with locked := true, lockBuffer := 0#64, sampleCount := 0, symbolCount := 0 } :=
  rfl
@[simp] theorem acquireLock_response :
    (acquireLock s).response =
      { s.response with events := s.response.events ++ [.lockAcquired] } :=
  rfl

@[simp] theorem incrementTimeout_sync : (incrementTimeout s).sync = s.sync := rfl
@[simp] theorem incrementTimeout_frame : (incrementTimeout s).frame = s.frame := rfl
@[simp] theorem incrementTimeout_coll : (incrementTimeout s).coll = s.coll := rfl
@[simp] theorem incrementTimeout_demod :
    (incrementTimeout s).demod =
      { s.demod with timeout := s.demod.timeout + 1#8 } :=
  rfl
@[simp] theorem incrementTimeout_response : (incrementTimeout s).response = s.response := rfl

@[simp] theorem timeoutCounted_sync : (timeoutCounted s).sync = s.sync := rfl
@[simp] theorem timeoutCounted_frame : (timeoutCounted s).frame = s.frame := rfl
@[simp] theorem timeoutCounted_coll : (timeoutCounted s).coll = s.coll := rfl
@[simp] theorem timeoutCounted_demod :
    (timeoutCounted s).demod =
      { s.demod with
        timeout := s.demod.timeout + 1#8
        locked := s.demod.locked && !timeoutDrops s } :=
  rfl
@[simp] theorem timeoutCounted_response :
    (timeoutCounted s).response =
      { s.response with
        events :=
          s.response.events ++ if timeoutDrops s = true then [.lockLost .timeout] else [] } :=
  rfl

end

/-- The three outcomes of a sample's demodulation, with its `completed` bit. -/
inductive Demodulated (v : Word) (s : State) : State → Bool → Prop where
  | between (hend : symbolEnds v s = false) : Demodulated v s (sampled v s) false
  | forwards (hend : symbolEnds v s = true) (hlock : (sampled v s).demod.locked = true) {u : State}
      (hu : symbolHandler (decided v s).demod.modalSymbol (decided v s) = .ok u) :
      Demodulated v s (countTimeout u) true
  | detects (hend : symbolEnds v s = true) (hlock : (sampled v s).demod.locked = false) :
      Demodulated v s (countTimeout (detectLock (decided v s))) true

theorem demodulate_demodulated {v : Word} {s t : State} {c : Bool}
    (h : demodulate Config.rnd (sampleValue v) s = .ok (t, c)) : Demodulated v s t c := by
  rcases demodulate_cases h with ⟨rfl, hp, ht⟩ | ⟨rfl, hp, ht⟩ <;>
    rw [sampleSteps_eq] at ht hp <;> rw [periodCompletes_eq_symbolEnds] at hp
  · rw [ht]
    exact .between hp
  · obtain ⟨u, hu, rfl⟩ := completeSymbol_eq_ok.1 ht
    rcases routeSymbol_cases hu with ⟨hl, hu⟩ | ⟨hl, rfl⟩
    · exact .forwards hp hl hu
    · exact .detects hp hl

/-- While locked the sample steps leave the state machine; while unlocked it is in SYNC1. -/
theorem sampled_frame (v : Word) (s : State) :
    (sampled v s).frame =
      if s.demod.locked = true then s.frame else { s.frame with state := .sync1 } := rfl

theorem sampled_coll (v : Word) (s : State) : (sampled v s).coll = s.coll := rfl

theorem wordExists_of_le {s : State} (h : s.coll.dataBitCounter.toNat ≤ 2815) :
    pbIndexExists (deinterleaveIndex s.coll.dataBitCounter) = true :=
  deinterleaveIndex_exists (by omega)

/-- A sample is demodulated whenever its symbol would find its word (`20_memory.md` R71). -/
theorem demodulate_answers (v : Word) {s : State}
    (h : s.frame.state = .data → s.coll.dataBitCounter.toNat ≤ 2815) :
    ∃ t c, demodulate Config.rnd (sampleValue v) s = .ok (t, c) := by
  have hroute : ∃ u, routeSymbol (decided v s) = .ok u := by
    unfold routeSymbol
    split
    · rename_i hl
      have hlocked : s.demod.locked = true := by
        have : (s.demod.locked && !crossingsDrop v s) = true := hl
        simp_all
      have hframe : (decided v s).frame = s.frame := (sampled_frame v s).trans (if_pos hlocked)
      exact symbolHandler_answers _ fun hst => wordExists_of_le (h (hframe ▸ hst))
    · exact ⟨_, rfl⟩
  obtain ⟨u, hu⟩ := hroute
  unfold demodulate
  simp only [sampleSteps_eq, periodCompletes_eq_symbolEnds]
  cases symbolEnds v s with
  | false => exact ⟨_, _, rfl⟩
  | true =>
    have hdone : completeSymbol Config.rnd (advancePhase (sampleTiming s) (stepped v s)) =
        .ok (countTimeout u) := completeSymbol_eq_ok.2 ⟨u, hu, rfl⟩
    simp only [hdone, if_true]
    exact ⟨_, _, rfl⟩

/-- What a SMP that runs answers. -/
theorem exec_smp_of_runs {v : Word} {s : State} (h : SampleRuns v s) :
    ∃ t c, Demodulated v (beginResponse s) t c ∧
      exec (.smp v) s = .next (setValue (sampleValueBits c t) t) := by
  obtain ⟨hc, hfin, hdata⟩ := h
  obtain ⟨t, c, ht⟩ := demodulate_answers v (s := beginResponse s) hdata
  exact ⟨t, c, demodulate_demodulated ht,
    exec_smp_of_ok hc (by simpa [sampleIsFinite] using hfin) ht⟩

/-! ### The registers after the sample steps and after the decision -/

theorem sampled_lockBuffer (v : Word) (s : State) :
    (sampled v s).demod.lockBuffer = s.demod.lockBuffer := rfl

theorem decided_modalSymbol (v : Word) (s : State) :
    (decided v s).demod.modalSymbol = argmaxCounts (countsAfter v s) := rfl

@[simp] theorem decided_sync (v : Word) (s : State) : (decided v s).sync = s.sync := rfl

@[simp] theorem decided_coll (v : Word) (s : State) : (decided v s).coll = s.coll := rfl

theorem decided_frame_eq (v : Word) (s : State) : (decided v s).frame = (sampled v s).frame := rfl

/-- The events when the symbol has been decided: LOCK_LOST(0), if any, and SYMBOL. -/
theorem decided_response (v : Word) (s : State) :
    (decided v s).response =
      { s.response with
        events :=
          s.response.events ++ (if crossingsDrop v s = true then [.lockLost .crossings] else []) ++
            [.symbol (argmaxCounts (countsAfter v s)) (sampled v s).demod.locked] } := rfl

end Sys2Proof.Proofs.Sample
end

section
/-! PROOFS. The statements about SMP (`42_demodulator.md`, `46_host_commands.md` R273): each is read
off the closed form of the sample steps and the three outcomes of the command. -/

namespace Sys2Proof.Proofs.SampleStatements

open Sys2Proof.Machine Sys2Proof.Safety Sys2Proof.Proofs.Commands Sys2Proof.Proofs.Inversion
  Sys2Proof.Proofs.Sample Sys2Proof.Proofs.SymSync1

/-! ### What follows the sample steps -/

/-- A forwarded symbol runs the handler of the state that held before, on that symbol's bits. -/
theorem symbolHandler_writes {q : Symbol} {s u : State} (h : symbolHandler q s = .ok u) :
    ∃ w : HandlerWrites, Transition s.frame.state w.next w.events ∧ u = w.apply s.frame.state s ∧
      ∀ c, c.frame.state = s.frame.state →
        symbolHandler q (withInputs s c) = .ok (w.apply s.frame.state c) := by
  obtain ⟨w, htr, hu, hall⟩ := handlerOf_writes h
  refine ⟨w, htr, hu, fun c hc => ?_⟩
  unfold symbolHandler
  have hst : (withInputs s c).frame.state = s.frame.state := hc
  rw [hst]
  exact hall c

/-- The registers that neither the symbol-complete sequence nor a handler writes. -/
structure KeptAfterSample (a t : State) : Prop where
  configured : t.configured = a.configured
  sampleFreq : t.sampleFreq = a.sampleFreq
  pending : t.pending = a.pending
  symbolIn : t.symbolIn = a.symbolIn
  status : t.response.status = a.response.status
  aux : t.response.aux = a.response.aux
  phase : t.demod.phase = a.demod.phase
  zeroOffset : t.demod.zeroOffset = a.demod.zeroOffset
  envelope : t.demod.envelope = a.demod.envelope
  envelopeSum : t.demod.envelopeSum = a.demod.envelopeSum
  envelopeCount : t.demod.envelopeCount = a.demod.envelopeCount
  lastSample : t.demod.lastSample = a.demod.lastSample
  nonconsec : t.demod.nonconsec = a.demod.nonconsec

/-- The lock detector's two outcomes. -/
theorem detectLock_cases (s : State) :
    (isLockPattern (shiftLockBuffer s).demod.lockBuffer = true ∧
        detectLock s = acquireLock (shiftLockBuffer s)) ∨
      (isLockPattern (shiftLockBuffer s).demod.lockBuffer = false ∧
        detectLock s = shiftLockBuffer s) := by
  rw [detectLock_eq]
  split
  · rename_i h
    exact Or.inl ⟨h, rfl⟩
  · rename_i h
    exact Or.inr ⟨by simpa using h, rfl⟩

theorem demodulated_kept {v : Word} {s t : State} {c : Bool} (h : Demodulated v s t c) :
    KeptAfterSample (sampled v s) t := by
  cases h with
  | between => exact ⟨rfl, rfl, rfl, rfl, rfl, rfl, rfl, rfl, rfl, rfl, rfl, rfl, rfl⟩
  | forwards _ _ hu =>
    obtain ⟨w, -, rfl, -⟩ := symbolHandler_writes hu
    rw [countTimeout_eq]
    exact ⟨rfl, rfl, rfl, rfl, rfl, rfl, rfl, rfl, rfl, rfl, rfl, rfl, rfl⟩
  | detects =>
    rw [countTimeout_eq]
    rcases detectLock_cases (decided v s) with ⟨-, h⟩ | ⟨-, h⟩ <;> rw [h] <;>
      exact ⟨rfl, rfl, rfl, rfl, rfl, rfl, rfl, rfl, rfl, rfl, rfl, rfl, rfl⟩

/-- The `completed` bit is the end of the symbol. -/
theorem demodulated_completed {v : Word} {s t : State} {c : Bool} (h : Demodulated v s t c) :
    c = symbolEnds v s := by
  cases h with
  | between hend => exact hend.symm
  | forwards hend => exact hend.symm
  | detects hend => exact hend.symm

/-! ### The response's value (`46_host_commands.md` R273) -/

theorem sampleValueBits_toNat (c : Bool) (s : State) :
    (sampleValueBits c s).toNat =
      8 * s.demod.locked.toNat + 2 * s.demod.modalSymbol.toNat + c.toNat := by
  rw [sampleValueBits, BitVec.toNat_setWidth,
    Nat.mod_eq_of_lt (lt_of_lt_of_le (BitVec.isLt _) (by decide))]
  simp only [toNat_append_eq_add, BitVec.toNat_ofBool]
  omega

theorem sampleValueBits_fields (c : Bool) (s : State) :
    (sampleValueBits c s).getLsbD 0 = c ∧
      (sampleValueBits c s).extractLsb' 1 2 = s.demod.modalSymbol ∧
      (sampleValueBits c s).getLsbD 3 = s.demod.locked ∧ (sampleValueBits c s).toNat < 16 := by
  have hm := s.demod.modalSymbol.isLt
  have hl := Bool.toNat_lt s.demod.locked
  have hc := Bool.toNat_lt c
  have ht := sampleValueBits_toNat c s
  have hbit : ∀ i, (sampleValueBits c s).getLsbD i =
      decide ((sampleValueBits c s).toNat / 2 ^ i % 2 = 1) :=
    fun i => Nat.testBit_eq_decide_div_mod_eq
  refine ⟨?_, ?_, ?_, by omega⟩
  · rw [hbit, ht]
    cases c <;> simp <;> omega
  · apply BitVec.eq_of_toNat_eq
    rw [BitVec.extractLsb'_toNat, Nat.shiftRight_eq_div_pow]
    omega
  · rw [hbit, ht]
    cases s.demod.locked <;> simp <;> omega

/-! ### The analog registers and the phase -/

/-- Settles O25: step 2 and the write of `last_sample` are closed expressions, and nothing later
writes either register. -/
theorem smpTracksDcOffset : Obligations.SmpTracksDcOffset := by
  intro v s hrun
  obtain ⟨t, c, hdem, hexec⟩ := exec_smp_of_runs hrun
  have hkept := demodulated_kept hdem
  exact ⟨_, hexec, hkept.zeroOffset, hkept.lastSample⟩

/-- Settles O26. -/
theorem smpTracksEnvelope : Obligations.SmpTracksEnvelope := by
  intro v s hrun
  obtain ⟨t, c, hdem, hexec⟩ := exec_smp_of_runs hrun
  have hkept := demodulated_kept hdem
  have he : t.demod.envelope = envelopeAfter v s := hkept.envelope
  have hsum : t.demod.envelopeSum = envelopeSumAfter v s := hkept.envelopeSum
  have hcount : t.demod.envelopeCount = envelopeCountAfter s := hkept.envelopeCount
  refine ⟨_, hexec, ?_⟩
  simp only [setValue_demod, he, hsum, hcount, envelopeAfter, envelopeSumAfter, envelopeCountAfter]
  refine ⟨fun hl => by simp [hl], fun hl hst => ?_, fun hl hst => by simp [hl, hst]⟩
  simp [hl, hst]

/-- Settles O27. -/
theorem smpAdvancesPhase : Obligations.SmpAdvancesPhase := by
  intro v s hrun
  obtain ⟨t, c, hdem, hexec⟩ := exec_smp_of_runs hrun
  have hphase := (demodulated_kept hdem).phase.trans (sampled_phase v (beginResponse s))
  refine ⟨_, hexec, hphase, ?_⟩
  obtain ⟨hbit, -⟩ := sampleValueBits_fields c t
  have hcompleted : c = symbolEnds v (beginResponse s) := demodulated_completed hdem
  exact hbit.trans hcompleted

/-! ### The lock counters, at their bounds -/

theorem crossingsCounted_toNat {v : Word} {s : State} (h : LockCountersBounded s) :
    (crossingsCounted v s).toNat = crossingsAfter v s := by
  obtain ⟨-, hn, -⟩ := h
  have hbefore : (crossingsBefore s).toNat =
      if s.demod.locked = true then s.demod.nonconsec.toNat else 0 := by
    unfold crossingsBefore
    split <;> rfl
  unfold crossingsCounted crossingsAfter
  rw [← hbefore]
  have hle : (crossingsBefore s).toNat ≤ 20 := by
    rw [hbefore]
    split <;> omega
  split_ifs
  · rw [BitVec.toNat_add]
    exact Nat.mod_eq_of_lt (by simp; omega)
  · rfl
  · rfl

theorem crossingsDrop_eq_dropsLock {v : Word} {s : State} (h : LockCountersBounded s) :
    crossingsDrop v s = dropsLock v s := by
  rw [crossingsDrop, dropsLock, crossingsCounted_toNat h]

theorem sampled_locked {v : Word} {s : State} (h : LockCountersBounded s) :
    (sampled v s).demod.locked = holdsLock v s := by
  rw [holdsLock, ← crossingsDrop_eq_dropsLock h]
  rfl

theorem sampled_timeout (v : Word) (s : State) :
    (sampled v s).demod.timeout.toNat = timeoutBefore v s := by
  have h : (sampled v s).demod.timeout =
      if s.demod.locked = true ∧ signChanges v s = false then s.demod.timeout else 0#8 := rfl
  rw [h, timeoutBefore]
  cases s.demod.locked <;> cases signChanges v s <;> simp

/-- Once the lock is lost or was never held, step 3 or step 5 has cleared the timeout. -/
theorem timeout_of_unlocked {v : Word} {s : State} (h : (sampled v s).demod.locked = false) :
    (sampled v s).demod.timeout = 0#8 := by
  have hlock : (s.demod.locked && !crossingsDrop v s) = false := h
  have hnot : ¬(s.demod.locked = true ∧ signChanges v s = false) := by
    rintro ⟨hl, hc⟩
    simp [hl, hc, crossingsDrop] at hlock
  exact if_neg hnot

theorem timeoutBefore_le {v : Word} {s : State} (h : LockCountersBounded s) :
    timeoutBefore v s ≤ 101 := by
  obtain ⟨ht, -⟩ := h
  unfold timeoutBefore
  split <;> omega

/-- So the lock detector's symbol raises the timeout to 1 and cannot time out. -/
theorem timeoutDrops_detectLock {v : Word} {s : State}
    (h : (sampled v s).demod.locked = false) : timeoutDrops (detectLock (decided v s)) = false := by
  have htime : (detectLock (decided v s)).demod.timeout = 0#8 := by
    rw [← timeout_of_unlocked h]
    rcases detectLock_cases (decided v s) with ⟨-, hd⟩ | ⟨-, hd⟩ <;> rw [hd] <;> rfl
  simp [timeoutDrops, htime]

/-! ### A symbol at the lock detector (`42_demodulator.md` R161) -/

/-- The machine's masked test is the printed pair of contents (`30_encoding.md` R100). -/
theorem isLockPattern_eq_lockPattern (b : BitVec 64) : isLockPattern b = lockPattern b := by
  have hmask : Config.lockMask.extractLsb' 0 48 = 0x666666666666#48 := by decide
  have hflip : 0xFFFFFFFFFFFF#48 ^^^ 0x666666666666#48 = 0x999999999999#48 := by decide
  unfold isLockPattern lockPattern
  simp only [BitVec.extractLsb'_xor, hmask, decide_eq_decide]
  generalize b.extractLsb' 0 48 = x
  rw [BitVec.xor_eq_zero_iff]
  have hinv : x ^^^ 0x666666666666#48 = 0xFFFFFFFFFFFF#48 ↔ x = 0x999999999999#48 := by
    rw [← hflip]
    constructor
    · rintro h
      rw [← h, xor_cancel_right]
    · rintro rfl
      rw [xor_cancel_right]
  rw [hinv]

/-- A symbol that goes to the lock detector, in closed form: its pair enters the buffer, and the
pattern acquires lock (`42_demodulator.md` R161). -/
theorem detected_eq {v : Word} {s : State} (hlock : (sampled v s).demod.locked = false) :
    (lockPattern (shiftLockBuffer (decided v s)).demod.lockBuffer = true ∧
        countTimeout (detectLock (decided v s)) =
          incrementTimeout (acquireLock (shiftLockBuffer (decided v s)))) ∨
      (lockPattern (shiftLockBuffer (decided v s)).demod.lockBuffer = false ∧
        countTimeout (detectLock (decided v s)) =
          incrementTimeout (shiftLockBuffer (decided v s))) := by
  have hdrop := timeoutDrops_detectLock hlock
  have hcount : countTimeout (detectLock (decided v s)) =
      incrementTimeout (detectLock (decided v s)) := by
    rw [countTimeout_eq, timeoutCounted_of_not_drops hdrop]
  rw [hcount, ← isLockPattern_eq_lockPattern]
  rcases detectLock_cases (decided v s) with ⟨hp, hd⟩ | ⟨hp, hd⟩
  · exact Or.inl ⟨hp, by rw [hd]⟩
  · exact Or.inr ⟨hp, by rw [hd]⟩

/-! ### The events -/

/-- A handler reports at most one event, neither LOCK_LOST nor SYMBOL (`45_state_machine.md`
R250). -/
theorem transition_events {a b : FrameState} {es : List Event} (h : Transition a b es) :
    es.length ≤ 1 ∧ ∀ e ∈ es, ∀ c m f, e ≠ .lockLost c ∧ e ≠ .symbol m f := by
  cases h <;> simp

/-- The events of one sample in order (`42_demodulator.md` R163). -/
theorem demodulated_events {v : Word} {s t : State} {c : Bool} (h : Demodulated v s t c) :
    ∃ middle last : List Event,
      t.response.events =
          s.response.events ++ (if crossingsDrop v s = true then [.lockLost .crossings] else []) ++
            (if c = true then
              .symbol t.demod.modalSymbol (sampled v s).demod.locked :: middle ++ last else []) ∧
        middle.length ≤ 1 ∧ (last = [] ∨ last = [.lockLost .timeout]) ∧
        ∀ e ∈ middle, ∀ c m f, e ≠ .lockLost c ∧ e ≠ .symbol m f := by
  have hlast : ∀ b : Bool, (if b = true then [Event.lockLost .timeout] else []) = [] ∨
      (if b = true then [Event.lockLost .timeout] else []) = [.lockLost .timeout] := by
    intro b
    cases b <;> simp
  cases h with
  | between =>
    refine ⟨[], [], ?_, by simp, Or.inl rfl, by simp⟩
    simp only [Bool.false_eq_true, if_false, List.append_nil]
    rfl
  | @forwards _ _ u hu =>
    obtain ⟨w, htr, he, -⟩ := symbolHandler_writes hu
    obtain ⟨hlen, hev⟩ := transition_events htr
    have hevents : u.response.events = (decided v s).response.events ++ w.events := by
      rw [he]
      rfl
    have hmodal : u.demod.modalSymbol = argmaxCounts (countsAfter v s) := by
      rw [he]
      rfl
    rw [countTimeout_eq]
    refine ⟨w.events, _, ?_, hlen, hlast (timeoutDrops u), hev⟩
    simp [timeoutCounted, hevents, hmodal, decided_response]
  | detects hend hlock =>
    rcases detected_eq hlock with ⟨-, he⟩ | ⟨-, he⟩ <;> rw [he]
    · refine ⟨[.lockAcquired], [], ?_, by simp, Or.inl rfl, by simp⟩
      simp [incrementTimeout, acquireLock, shiftLockBuffer, decided_response, decided_modalSymbol]
    · refine ⟨[], [], ?_, by simp, Or.inl rfl, by simp⟩
      simp [incrementTimeout, shiftLockBuffer, decided_response, decided_modalSymbol]

/-! ### Which outcome it is -/

theorem demodulated_between {v : Word} {s t : State} {c : Bool} (h : Demodulated v s t c)
    (hend : symbolEnds v s = false) : t = sampled v s := by
  cases h with
  | between => rfl
  | forwards htrue => exact absurd (hend.symm.trans htrue) (by decide)
  | detects htrue => exact absurd (hend.symm.trans htrue) (by decide)

theorem demodulated_forwards {v : Word} {s t : State} {c : Bool} (h : Demodulated v s t c)
    (hend : symbolEnds v s = true) (hlock : (sampled v s).demod.locked = true) :
    ∃ u, symbolHandler (decided v s).demod.modalSymbol (decided v s) = .ok u ∧
      t = countTimeout u := by
  cases h with
  | between hfalse => exact absurd (hfalse.symm.trans hend) (by decide)
  | forwards _ _ hu => exact ⟨_, hu, rfl⟩
  | detects _ hnot => exact absurd (hnot.symm.trans hlock) (by decide)

theorem demodulated_detects {v : Word} {s t : State} {c : Bool} (h : Demodulated v s t c)
    (hend : symbolEnds v s = true) (hlock : (sampled v s).demod.locked = false) :
    t = countTimeout (detectLock (decided v s)) := by
  cases h with
  | between hfalse => exact absurd (hfalse.symm.trans hend) (by decide)
  | forwards _ hnot => exact absurd (hlock.symm.trans hnot) (by decide)
  | detects => rfl

/-! ### Crossings and the order of events -/

/-- Settles O28: LOCK_LOST(0) comes from step 5 only. -/
theorem smpCountsCrossings : Obligations.SmpCountsCrossings := by
  intro v s hrun hbound
  obtain ⟨t, c, hdem, hexec⟩ := exec_smp_of_runs hrun
  have hcount : t.demod.nonconsec = crossingsCounted v (beginResponse s) :=
    (demodulated_kept hdem).nonconsec
  have hdrop : crossingsDrop v (beginResponse s) = dropsLock v s :=
    crossingsDrop_eq_dropsLock (s := beginResponse s) hbound
  obtain ⟨middle, last, hev, -, hlast, hmid⟩ := demodulated_events hdem
  refine ⟨_, hexec, ?_, ?_⟩
  · rw [setValue_demod, hcount]
    exact crossingsCounted_toNat (s := beginResponse s) hbound
  · have hnm : Event.lockLost .crossings ∉ middle := fun hm =>
      absurd rfl (hmid _ hm .crossings 0#2 true).1
    have hnl : Event.lockLost .crossings ∉ last := by
      rcases hlast with h | h <;> simp [h]
    rw [setValue_response, hev, hdrop]
    cases dropsLock v s <;> cases c <;> simp [hnm, hnl, Response.empty]

/-- Settles O33. -/
theorem smpEventOrder : Obligations.SmpEventOrder := by
  intro v s hrun hbound
  obtain ⟨t, c, hdem, hexec⟩ := exec_smp_of_runs hrun
  have hkept := demodulated_kept hdem
  have hdrop : crossingsDrop v (beginResponse s) = dropsLock v s :=
    crossingsDrop_eq_dropsLock (s := beginResponse s) hbound
  have hlock : (sampled v (beginResponse s)).demod.locked = holdsLock v s :=
    sampled_locked (s := beginResponse s) hbound
  have hc : c = symbolEnds v s := demodulated_completed (s := beginResponse s) hdem
  obtain ⟨-, hmodal, hlocked, h16⟩ := sampleValueBits_fields c t
  obtain ⟨middle, last, hev, hlen, hlast, hmid⟩ := demodulated_events hdem
  refine ⟨_, hexec, hkept.status, hkept.aux, hmodal, hlocked, h16, middle, last, ?_, hlen, hlast,
    hmid⟩
  rw [hdrop, hlock, hc] at hev
  rw [setValue_response, hev]
  rfl

/-! ### The symbol -/

/-- The first greatest counter is the modal one (`42_demodulator.md` R158). -/
theorem argmaxCounts_isModal (n : Four (BitVec 32)) : IsModal n (argmaxCounts n) := by
  have cover : ∀ k : Symbol, k = 0#2 ∨ k = 1#2 ∨ k = 2#2 ∨ k = 3#2 := by decide
  obtain ⟨a, b, c, d⟩ := n
  unfold IsModal argmaxCounts
  constructor <;> intro k <;> rcases cover k with rfl | rfl | rfl | rfl <;> split_ifs <;>
    simp [fourGet] <;> bv_omega

theorem demodulated_decided {v : Word} {s t : State} (h : Demodulated v s t true) :
    t.demod.modalSymbol = argmaxCounts (countsAfter v s) ∧ t.demod.symCounts = ⟨0, 0, 0, 0⟩ ∧
      t.demod.symbolRate = (decided v s).demod.symbolRate := by
  cases h with
  | forwards _ _ hu =>
    obtain ⟨w, -, rfl, -⟩ := symbolHandler_writes hu
    rw [countTimeout_eq]
    exact ⟨rfl, rfl, rfl⟩
  | detects =>
    rw [countTimeout_eq]
    rcases detectLock_cases (decided v s) with ⟨-, h⟩ | ⟨-, h⟩ <;> rw [h] <;> exact ⟨rfl, rfl, rfl⟩

theorem decided_symbolRate (v : Word) (s : State) :
    (decided v s).demod.symbolRate =
      ((s.demod.symbolCount : Rat) + 1) * (s.sampleFreq.toNat : Rat) /
        ((s.demod.sampleCount : Rat) + 1) := by
  have h : (decided v s).demod.symbolRate =
      (((s.demod.symbolCount + 1) * s.sampleFreq.toNat : Nat) : Rat) /
        ((s.demod.sampleCount + 1 : Nat) : Rat) := rfl
  rw [h]
  push_cast
  rfl

/-- Settles O29. -/
theorem smpSlicesAndDecides : Obligations.SmpSlicesAndDecides := by
  intro v s hrun
  obtain ⟨t, c, hdem, hexec⟩ := exec_smp_of_runs hrun
  refine ⟨_, hexec, fun hend => ?_, fun hend => ?_⟩
  · obtain rfl := demodulated_between (s := beginResponse s) hdem hend
    exact ⟨rfl, rfl, rfl, rfl, rfl⟩
  · obtain rfl : c = true := (demodulated_completed (s := beginResponse s) hdem).trans hend
    obtain ⟨hmodal, hzero, hrate⟩ := demodulated_decided hdem
    refine ⟨hmodal ▸ argmaxCounts_isModal (countsAfter v s), hzero,
      hrate.trans (decided_symbolRate v (beginResponse s)), fun hbound hhold => ?_⟩
    have hlock := (sampled_locked (v := v) (s := beginResponse s) hbound).trans hhold
    obtain ⟨u, hu, rfl⟩ := demodulated_forwards hdem hend hlock
    obtain ⟨w, -, rfl, -⟩ := symbolHandler_writes hu
    rw [countTimeout_eq]
    exact ⟨rfl, rfl⟩

/-! ### The lock detector -/

/-- Settles O30. -/
theorem smpDetectsLock : Obligations.SmpDetectsLock := by
  intro v s hrun hbound hend hhold
  obtain ⟨t, c, hdem, hexec⟩ := exec_smp_of_runs hrun
  have hlock := (sampled_locked (v := v) (s := beginResponse s) hbound).trans hhold
  have hcounts : (decided v (beginResponse s)).demod.sampleCount = s.demod.sampleCount + 1 ∧
      (decided v (beginResponse s)).demod.symbolCount = s.demod.symbolCount + 1 := ⟨rfl, rfl⟩
  have hunlocked : (decided v (beginResponse s)).demod.locked = false := hlock
  have hbuffer : (decided v (beginResponse s)).demod.lockBuffer = s.demod.lockBuffer := rfl
  obtain rfl := demodulated_detects hdem hend hlock
  rcases detected_eq hlock with ⟨hp, he⟩ | ⟨hp, he⟩ <;> rw [he] at hexec
  · refine ⟨_, hexec, ⟨fun _ => ?_, fun hno => ?_⟩, by simp, by simp⟩
    · simp
    · simp only [shiftLockBuffer_demod, hbuffer, shiftInPair, symbolLockPair] at hp
      exact absurd (hp.symm.trans hno) (by decide)
  · refine ⟨_, hexec, ⟨fun hyes => ?_, fun _ => ?_⟩, by simp, by simp⟩
    · simp only [shiftLockBuffer_demod, hbuffer, shiftInPair, symbolLockPair] at hp
      exact absurd (hyes.symm.trans hp) (by decide)
    · simp only [setValue_demod, setValue_response, incrementTimeout_demod,
        incrementTimeout_response, shiftLockBuffer_demod, shiftLockBuffer_response,
        decided_response, hunlocked, hcounts, hbuffer, shiftInPair, symbolLockPair]
      cases crossingsDrop v (beginResponse s) <;> simp [Response.empty]

/-! ### The forwarded symbol -/

theorem sampled_baud {v : Word} {s : State} (h : s.demod.locked = true) :
    (decided v s).demod.baud = s.demod.baud := if_pos h

theorem decided_frame {v : Word} {s : State} (h : s.demod.locked = true) :
    (decided v s).frame = s.frame := if_pos h

theorem locked_of_holdsLock {v : Word} {s : State} (h : holdsLock v s = true) :
    s.demod.locked = true := by
  rw [holdsLock, Bool.and_eq_true] at h
  exact h.1

theorem timeoutBefore_succ {v : Word} {s : State} (h : LockCountersBounded s) :
    ((sampled v s).demod.timeout + 1#8).toNat = timeoutBefore v s + 1 := by
  have hle := timeoutBefore_le (v := v) h
  rw [BitVec.toNat_add, sampled_timeout]
  exact Nat.mod_eq_of_lt (by simp; omega)

/-- A symbol that completes while locked, in closed form: the writes of the handler that SYM would
run, on the decided state, and the timeout's count. -/
theorem forwarded_eq {v : Word} {s u : State} (hbound : LockCountersBounded s)
    (hhold : holdsLock v s = true)
    (hu : symbolHandler (decided v s).demod.modalSymbol (decided v s) = .ok u) :
    ∃ w : HandlerWrites, Transition s.frame.state w.next w.events ∧
      symbolHandler (decided v s).demod.modalSymbol s = .ok (w.apply s.frame.state s) ∧
      u = w.apply s.frame.state (decided v s) ∧ timeoutDrops u = timesOut v s := by
  have hframe := decided_frame (v := v) (locked_of_holdsLock hhold)
  obtain ⟨w, htr, he, hall⟩ := symbolHandler_writes hu
  rw [hframe] at htr he
  refine ⟨w, htr, ?_, he, ?_⟩
  · have hin : withInputs (decided v s) s = s := by
        rw [withInputs, hframe, decided_sync, decided_coll]
    have h := hall s (by rw [hframe])
    rwa [hin, hframe] at h
  · have hlocked : u.demod.locked = holdsLock v s := by
      rw [he, ← sampled_locked hbound]
      rfl
    have htimeout : (u.demod.timeout + 1#8).toNat = timeoutBefore v s + 1 := by
      rw [he, ← timeoutBefore_succ hbound]
      rfl
    rw [timeoutDrops, timesOut, hlocked, htimeout]

/-- Settles O31: the handler's writes follow from registers the sample steps leave alone while
locked. -/
theorem smpForwardsLikeSym : Obligations.SmpForwardsLikeSym := by
  intro v s hrun hbound hend hhold
  obtain ⟨t, c, hdem, hexec⟩ := exec_smp_of_runs hrun
  obtain ⟨hconf, -⟩ := hrun
  have hlock := (sampled_locked (v := v) (s := beginResponse s) hbound).trans hhold
  obtain ⟨u, hu, rfl⟩ := demodulated_forwards hdem hend hlock
  obtain ⟨w, -, hsym, he, hout⟩ := forwarded_eq (s := beginResponse s) hbound hhold hu
  have hbaud := sampled_baud (v := v) (s := beginResponse s) (locked_of_holdsLock hhold)
  have hframe := decided_frame (v := v) (s := beginResponse s) (locked_of_holdsLock hhold)
  rw [countTimeout_eq] at hexec
  have hdrop : crossingsDrop v (beginResponse s) = false := by
    have : (s.demod.locked && !crossingsDrop v (beginResponse s)) = true := hlock
    simp_all
  have hsym' : exec (.sym (decided v (beginResponse s)).demod.modalSymbol) s = .next
      (setValue (symbolValueBits (w.apply s.frame.state (beginResponse s)))
        (w.apply s.frame.state (beginResponse s))) := by
    rw [exec_sym_of_configured hconf]
    exact complete_eq_next.2 ⟨_, hsym, rfl⟩
  have hmodal : u.demod.modalSymbol = (decided v (beginResponse s)).demod.modalSymbol := by
    rw [he, apply_demod]
  have hbuffer : u.demod.lockBuffer = s.demod.lockBuffer := by
    rw [he, apply_demod]
    rfl
  have hevents : u.response.events = .symbol u.demod.modalSymbol true :: w.events := by
    rw [hmodal, he, apply_response, decided_response, hdrop, hlock]
    rfl
  rw [← hmodal] at hsym'
  have hsameBaud : u.demod.baud = w.baud.getD s.demod.baud := by rw [he, apply_demod, hbaud]; rfl
  have hsameFrame : u.frame = (w.apply s.frame.state s).frame := by
    rw [he, apply_frame, hframe]
    rfl
  refine ⟨_, _, hexec, hsym', ?_, ?_, ?_, ?_, hbuffer, ?_⟩
  · simp [he]
  · simpa using hsameFrame
  · simp [he]
  · simpa using hsameBaud
  · simp only [setValue_response, timeoutCounted_response, hevents, hout, apply_response]
    rfl

/-! ### The timeout, the frame and the unlocked sample -/

/-- Settles O32. -/
theorem smpCountsTimeout : Obligations.SmpCountsTimeout := by
  intro v s hrun hbound
  obtain ⟨t, c, hdem, hexec⟩ := exec_smp_of_runs hrun
  have htime : (sampled v (beginResponse s)).demod.timeout.toNat = timeoutBefore v s :=
    sampled_timeout v (beginResponse s)
  have hsucc : ((sampled v (beginResponse s)).demod.timeout + 1#8).toNat = timeoutBefore v s + 1 :=
    timeoutBefore_succ (s := beginResponse s) hbound
  have hlock : (sampled v (beginResponse s)).demod.locked = holdsLock v s :=
    sampled_locked (s := beginResponse s) hbound
  refine ⟨_, hexec, ?_, fun hend => ?_, fun hend hhold => ?_⟩
  · cases hend : symbolEnds v s with
    | false =>
      obtain rfl := demodulated_between (s := beginResponse s) hdem hend
      simpa using htime
    | true =>
      simp only [setValue_demod, if_true]
      rw [← hsucc]
      cases hdem with
      | between hfalse => exact absurd (hfalse.symm.trans hend) (by decide)
      | forwards _ _ hu =>
        obtain ⟨w, -, rfl, -⟩ := symbolHandler_writes hu
        rw [countTimeout_eq]
        rfl
      | detects _ hnot =>
        rcases detected_eq hnot with ⟨-, he⟩ | ⟨-, he⟩ <;> rw [he] <;> rfl
  · obtain rfl := demodulated_between (s := beginResponse s) hdem hend
    exact hlock
  · obtain ⟨u, hu, rfl⟩ := demodulated_forwards hdem hend (hlock.trans hhold)
    obtain ⟨w, -, -, he, hout⟩ := forwarded_eq (s := beginResponse s) hbound hhold hu
    have hkeep : u.demod.locked = true := by
      rw [he, apply_demod]
      exact hlock.trans hhold
    rw [countTimeout_eq]
    simp only [setValue_demod, timeoutCounted_demod, hkeep, hout, Bool.true_and]
    rfl

theorem sampled_baud_eq (v : Word) (s : State) :
    (sampled v s).demod.baud = if s.demod.locked = true then s.demod.baud else .b1600 := rfl

/-- Unless a symbol is forwarded, only the sample steps touch the state machine and `baud`. -/
theorem demodulated_not_forwarded {v : Word} {s t : State} {c : Bool} (h : Demodulated v s t c)
    (hno : symbolEnds v s = false ∨ (sampled v s).demod.locked = false) :
    t.sync = s.sync ∧ t.coll = s.coll ∧ t.frame = (sampled v s).frame ∧
      t.demod.baud = (sampled v s).demod.baud := by
  cases h with
  | between => exact ⟨rfl, rfl, rfl, rfl⟩
  | forwards hend hlock => simp [hend, hlock] at hno
  | detects hend hlock =>
    rcases detected_eq hlock with ⟨-, he⟩ | ⟨-, he⟩ <;> rw [he] <;>
      exact ⟨by simp, by simp, by simp [decided_frame_eq], by simp; rfl⟩

/-- Unless the lock detector runs, the lock buffer keeps what it holds. -/
theorem demodulated_lockBuffer {v : Word} {s t : State} {c : Bool} (h : Demodulated v s t c)
    (hno : symbolEnds v s = false ∨ (sampled v s).demod.locked = true) :
    t.demod.lockBuffer = s.demod.lockBuffer := by
  cases h with
  | between => rfl
  | forwards _ _ hu =>
    obtain ⟨w, -, he, -⟩ := symbolHandler_writes hu
    rw [countTimeout_eq, timeoutCounted_demod, he, apply_demod]
    rfl
  | detects hend hlock => simp [hend, hlock] at hno

/-- Settles O34. -/
theorem smpFrame : Obligations.SmpFrame := by
  intro v s hrun hbound
  obtain ⟨t, c, hdem, hexec⟩ := exec_smp_of_runs hrun
  have hkept := demodulated_kept hdem
  have hlock : (sampled v (beginResponse s)).demod.locked = holdsLock v s :=
    sampled_locked (s := beginResponse s) hbound
  rw [← hlock]
  have hbuffer := demodulated_lockBuffer hdem
  refine ⟨_, hexec, ⟨hkept.configured, hkept.sampleFreq⟩, fun hno => ?_, hbuffer⟩
  obtain ⟨hsync, hcoll, hframe, hbaud⟩ := demodulated_not_forwarded hdem hno
  rw [sampled_frame] at hframe
  rw [sampled_baud_eq] at hbaud
  refine ⟨hsync, hcoll, fun p k => ?_, fun hl => ?_, fun hl => ?_⟩
  · simp only [pbRead, setValue_coll, hcoll, beginResponse_coll]
  · simp only [beginResponse_demod, beginResponse_frame, hl, if_true] at hframe hbaud
    exact ⟨hframe, hbaud⟩
  · simp only [beginResponse_demod, beginResponse_frame, hl, Bool.false_eq_true, if_false]
      at hframe hbaud
    exact ⟨hframe, hbaud⟩

/-- A sample after which lock is not held either came unlocked or reports LOCK_LOST. -/
theorem unlocked_before_of_quiet {v : Word} {s t : State} {c : Bool} (h : Demodulated v s t c)
    (hlock : t.demod.locked = false) (hquiet : ∀ k, Event.lockLost k ∉ t.response.events) :
    s.demod.locked = false ∧ (sampled v s).demod.locked = false := by
  obtain ⟨middle, last, hev, -⟩ := demodulated_events h
  have hdrop : crossingsDrop v s = false := by
    by_contra hd
    have hd' : crossingsDrop v s = true := by simpa using hd
    refine hquiet .crossings ?_
    simp [hev, hd']
  have hstep : (sampled v s).demod.locked = s.demod.locked := by
    have e : (sampled v s).demod.locked = (s.demod.locked && !crossingsDrop v s) := rfl
    rw [e, hdrop, Bool.not_false, Bool.and_true]
  suffices hnot : (sampled v s).demod.locked = false from ⟨hstep ▸ hnot, hnot⟩
  cases h with
  | between => exact hlock
  | detects _ hno => exact hno
  | @forwards _ hyes u hu =>
    obtain ⟨w, -, he, -⟩ := symbolHandler_writes hu
    have hu' : u.demod.locked = true := by
      rw [he, apply_demod]
      exact hyes
    rw [countTimeout_eq] at hlock hquiet
    have hout : timeoutDrops u = true := by simpa [hu'] using hlock
    exact absurd (by simp [hout]) (hquiet .timeout)

/-- Settles O35: what step 3 forces while unlocked, nothing later undoes. -/
theorem unlockedSampleForcesSync1 : Obligations.UnlockedSampleForcesSync1 := by
  intro v s hrun
  obtain ⟨t, c, hdem, hexec⟩ := exec_smp_of_runs hrun
  refine ⟨_, hexec, fun hlock hquiet => ?_⟩
  obtain ⟨hl, hnot⟩ := unlocked_before_of_quiet hdem hlock hquiet
  obtain ⟨-, -, hframe, hbaud⟩ := demodulated_not_forwarded hdem (Or.inr hnot)
  have hkept := demodulated_kept hdem
  have hl' : s.demod.locked = false := hl
  have he : t.demod.envelope = envelopeAfter v (beginResponse s) := hkept.envelope
  have hsum : t.demod.envelopeSum = envelopeSumAfter v (beginResponse s) := hkept.envelopeSum
  have hcount : t.demod.envelopeCount = envelopeCountAfter (beginResponse s) := hkept.envelopeCount
  rw [sampled_frame] at hframe
  rw [sampled_baud_eq] at hbaud
  simp [hframe, hbaud, he, hsum, hcount, envelopeAfter, envelopeSumAfter, envelopeCountAfter, hl']

end Sys2Proof.Proofs.SampleStatements
end

section
/-! PROOFS. The statements over every instruction that follow from what one instruction can do
(`exec_effect`): errors, the configuration, the memory and the model's own fields. -/

namespace Sys2Proof.Proofs.EveryInstruction

open Sys2Proof.Machine Sys2Proof.Safety Sys2Proof.Proofs.Commands Sys2Proof.Proofs.Inversion
  Sys2Proof.Proofs.Sample Sys2Proof.Proofs.SampleStatements

/-! ### What a handler does to the memory -/

/-- SYNC1 and FIW do not touch the collector (`45_state_machine.md` R242 to R245). -/
theorem handleSync1_coll (d : SymbolBits) (s : State) : (handleSync1 d s).coll = s.coll := by
  rcases handleSync1_cases d s with ⟨pol, b, -, h⟩ | ⟨-, h⟩ <;> rw [h] <;> rfl

theorem handleFiw_same (d : SymbolBits) (s : State) :
    (handleFiw d s).coll = s.coll ∧ (handleFiw d s).sync = s.sync := by
  by_cases h48 : (shiftFiw d s).frame.fiwCount.toNat = 48
  · rw [handleFiw_full h48]
    rcases checkFiw_cases (shiftFiw d s) with ⟨-, h⟩ | ⟨w, n, -, -, h⟩ | ⟨w, n, -, -, h⟩ <;>
      rw [h] <;> exact ⟨rfl, rfl⟩
  · rw [handleFiw_below h48]
    exact ⟨rfl, rfl⟩

/-- DATA leaves what the collector's step leaves. -/
theorem countData_coll (s : State) : (countData s).coll = s.coll := by
  rcases countData_cases s with ⟨h, -⟩ | ⟨h, -⟩ <;> rw [h] <;> rfl

theorem handlerOf_coll {st : FrameState} {d : SymbolBits} {s t : State}
    (h : handlerOf st d s = .ok t) (hst : st = .sync1 ∨ st = .fiw) : t.coll = s.coll := by
  rcases handlerOf_cases h with ⟨rfl, rfl⟩ | ⟨rfl, rfl⟩ | ⟨rfl, -⟩ | ⟨rfl, -⟩
  · exact handleSync1_coll d s
  · exact (handleFiw_same d s).1
  · simp at hst
  · simp at hst

/-- Every handler keeps the canonical form. -/
theorem handlerOf_wf {st : FrameState} {d : SymbolBits} {s t : State}
    (h : handlerOf st d s = .ok t) (hm : Memory.wf s.coll.pb = true) :
    Memory.wf t.coll.pb = true := by
  rcases handlerOf_cases h with ⟨rfl, rfl⟩ | ⟨rfl, rfl⟩ | ⟨rfl, rfl⟩ | ⟨rfl, hi, rfl⟩
  · rw [handleSync1_coll, hm]
  · rw [(handleFiw_same d s).1, hm]
  · rw [handleSync2_eq]
    split
    · exact reset_memory_wf
    · exact hm
  · rw [countData_coll]
    exact collectSteps_wf d hi hm

/-! ### What a sample does to the memory -/

/-- A sample leaves the collector alone or forwards its symbol to the handler of `state`, while
locked. -/
theorem demodulated_coll {v : Word} {s t : State} {c : Bool} (h : Demodulated v s t c) :
    t.coll = s.coll ∨ ∃ (d : SymbolBits) (u : State),
      handlerOf s.frame.state d (decided v s) = .ok u ∧ t.coll = u.coll := by
  cases h with
  | between => exact Or.inl rfl
  | detects hend hlock =>
    rcases detected_eq hlock with ⟨-, he⟩ | ⟨-, he⟩ <;> rw [he] <;> simp
  | @forwards _ hlock u hu =>
    have hlocked : s.demod.locked = true := by
      have : (s.demod.locked && !crossingsDrop v s) = true := hlock
      simp_all
    refine Or.inr ⟨decodeSymbol (decided v s).sync.polarity (decided v s).demod.modalSymbol, u, ?_,
      by rw [countTimeout_eq, timeoutCounted_coll]⟩
    rw [← decided_frame (v := v) hlocked]
    exact hu

/-! ### The statements -/

/-- Settles O12: an instruction that does not fail answers OK. -/
theorem errorsChangeNoRegister : Obligations.ErrorsChangeNoRegister := by
  intro i s t e hexec herr
  cases exec_effect hexec with
  | configures | resets | answers | records | latches => cases herr
  | fails => exact ⟨errorResponse_sameRegisters .., rfl⟩
  | samples _ h =>
    have hok := (demodulated_kept (demodulate_demodulated h)).status
    rw [setValue_response, hok] at herr
    cases herr
  | symbol _ h =>
    obtain ⟨w, -, rfl, -⟩ := handlerOf_writes h
    cases herr
  | handles st _ h =>
    obtain ⟨w, -, rfl, -⟩ := handlerOf_writes h
    cases herr

/-- Settles O13. -/
theorem onlyCfgWritesConfiguration : Obligations.OnlyCfgWritesConfiguration := by
  intro i s t hexec
  have same : ∀ {u : State}, SameConfiguration s u →
      (SameConfiguration s u ∨ ∃ f : Word, i = .cfg f ∧ f ≠ 0 ∧ u.configured = true ∧
        u.sampleFreq = f) ∧ (s.configured = true → u.configured = true) :=
    fun h => ⟨Or.inl h, fun hc => h.1.trans hc⟩
  cases exec_effect hexec with
  | configures hf => exact ⟨Or.inr ⟨_, rfl, hf, rfl, rfl⟩, fun _ => rfl⟩
  | resets | answers | fails | records | latches => exact same ⟨rfl, rfl⟩
  | samples _ h =>
    have hkept := demodulated_kept (demodulate_demodulated h)
    exact same ⟨hkept.configured, hkept.sampleFreq⟩
  | symbol _ h =>
    obtain ⟨w, -, rfl, -⟩ := handlerOf_writes h
    exact same ⟨rfl, rfl⟩
  | handles st _ h =>
    obtain ⟨w, -, rfl, -⟩ := handlerOf_writes h
    exact same ⟨rfl, rfl⟩

/-- Settles O58. -/
theorem portFieldsStay : Obligations.PortFieldsStay := by
  intro i s t hexec
  cases exec_effect hexec with
  | configures hf => exact ⟨rfl, Or.inr (Or.inr (Or.inr ⟨_, rfl, hf⟩))⟩
  | resets => exact ⟨rfl, Or.inr (Or.inr (Or.inl rfl))⟩
  | answers | fails | records => exact ⟨rfl, Or.inl rfl⟩
  | latches q hi => exact ⟨rfl, Or.inr (Or.inl hi)⟩
  | samples _ h =>
    have hkept := demodulated_kept (demodulate_demodulated h)
    exact ⟨hkept.pending, Or.inl hkept.symbolIn⟩
  | symbol _ h =>
    obtain ⟨w, -, rfl, -⟩ := handlerOf_writes h
    exact ⟨rfl, Or.inl rfl⟩
  | handles st _ h =>
    obtain ⟨w, -, rfl, -⟩ := handlerOf_writes h
    exact ⟨rfl, Or.inl rfl⟩

/-- Every instruction keeps the canonical form of the memory. -/
theorem exec_wf {i : Instr} {s t : State} (hexec : exec i s = .next t)
    (hm : Memory.wf s.coll.pb = true) : Memory.wf t.coll.pb = true := by
  cases exec_effect hexec with
  | configures | resets => exact reset_memory_wf
  | answers | fails | records | latches => exact hm
  | samples _ h =>
    rw [setValue_coll]
    rcases demodulated_coll (demodulate_demodulated h) with hc | ⟨d, u, hu, hc⟩ <;> rw [hc]
    · exact hm
    · exact handlerOf_wf hu hm
  | symbol _ h =>
    rw [setValue_coll]
    exact handlerOf_wf h hm
  | handles st _ h => exact handlerOf_wf h hm

/-- Settles O57. -/
theorem memoryStaysCanonical : Obligations.MemoryStaysCanonical := by
  intro s t hm hstep
  unfold step at hstep
  split at hstep
  · cases hstep
    exact hm
  · exact exec_wf hstep hm

theorem pbRead_of_coll {s t : State} (h : t.coll = s.coll) (p : Phase) (k : BitVec 7) :
    pbRead p k t = pbRead p k s := by
  unfold pbRead
  rw [h]

/-- Settles O49: outside SYNC2 and DATA a handler leaves the collector alone. -/
theorem phaseBufferWriters : Obligations.PhaseBufferWriters := by
  intro i s t p k hi hexec hne
  have quiet : ∀ {st : FrameState} {d : SymbolBits} {a u : State}, handlerOf st d a = .ok u →
      a.coll = s.coll → t.coll = u.coll → st = .sync2 ∨ st = .data := by
    intro st d a u h ha ht
    by_contra hno
    have hst : st = .sync1 ∨ st = .fiw := by cases st <;> simp_all
    exact hne (pbRead_of_coll (ht.trans ((handlerOf_coll h hst).trans ha)) p k)
  cases exec_effect hexec with
  | configures hf => exact Or.inr (Or.inl ⟨_, rfl, hf⟩)
  | resets => exact Or.inl rfl
  | answers | fails | latches => exact absurd rfl hne
  | records _ _ _ hno => simp [hno] at hi
  | handles _ hno => simp [hno] at hi
  | @symbol q _ _ hc h =>
    exact Or.inr (Or.inr ⟨Or.inl ⟨q, rfl⟩, quiet h rfl rfl⟩)
  | @samples v _ _ _ hc h =>
    rcases demodulated_coll (demodulate_demodulated h) with hcoll | ⟨d, u, hu, hcoll⟩
    · exact absurd (pbRead_of_coll hcoll p k) hne
    · exact Or.inr (Or.inr ⟨Or.inr ⟨v, rfl⟩, quiet hu rfl hcoll⟩)

end Sys2Proof.Proofs.EveryInstruction
end

section
/-! PROOFS. The collector's step, word by word (`44_collector.md` R220 to R229): the machine's
sub-steps make the step that `CollectedStep` describes. -/

namespace Sys2Proof.Proofs.CollectorStep

open Sys2Proof.Machine Sys2Proof.Safety

/-! ### The words written (`44_collector.md` R223, R224) -/

theorem shiftInTop_eq_enterTop (w : Word) (bit : Bool) : shiftInTop w bit = enterTop w bit := by
  cases bit <;> rfl

theorem pbRead_shiftIntoWord {p : Phase} {i : BitVec 7} {bit : Bool} {s : State}
    (hm : Memory.wf s.coll.pb = true) (q : Phase) (j : BitVec 7) :
    pbRead q j (shiftIntoWord p i bit s) =
      if q = p ∧ j = i then shiftInTop (pbRead q j s) bit else pbRead q j s := by
  unfold shiftIntoWord
  split
  · rename_i h
    obtain ⟨rfl, rfl⟩ := h
    exact pbRead_pbWrite_same hm
  · rename_i h
    exact pbRead_pbWrite_other h

/-- The bit that goes to a phase. -/
def bitOf (d : SymbolBits) : Phase → Bool
  | .a => d.bitA
  | .b => d.bitB
  | .c => d.bitA
  | .d => d.bitB

theorem shiftIntoWord_wf {p : Phase} {i : BitVec 7} {bit : Bool} {s : State}
    (hi : pbIndexExists i = true) (hm : Memory.wf s.coll.pb = true) :
    Memory.wf (shiftIntoWord p i bit s).coll.pb = true :=
  pbWrite_wf hi hm

/-- One word of each phase written takes its bit at the top; every other word reads as before. -/
theorem pbRead_writeBits (d : SymbolBits) {s : State}
    (hi : pbIndexExists (deinterleaveIndex s.coll.dataBitCounter) = true)
    (hm : Memory.wf s.coll.pb = true) (q : Phase) (j : BitVec 7) :
    pbRead q j (writeBits d s) =
      if q ∈ writtenPhases s.coll.phaseToggle s.sync.levels ∧
          j = deinterleaveIndex s.coll.dataBitCounter then
        shiftInTop (pbRead q j s) (bitOf d q)
      else pbRead q j s := by
  unfold writeBits
  simp only
  split <;> rename_i ht hl <;> rw [ht, hl] <;>
    simp only [pbRead_shiftIntoWord hm, pbRead_shiftIntoWord (shiftIntoWord_wf hi hm)] <;>
    cases q <;> simp [writtenPhases, bitOf]

/-! ### The idle words counted (`44_collector.md` R225) -/

theorem pbRead_countIdleWord (i : BitVec 7) (s : State) (p q : Phase) (j : BitVec 7) :
    pbRead q j (countIdleWord i s p) = pbRead q j s := by
  obtain ⟨-, hpb, -⟩ := countIdleWord_effect i s p
  unfold pbRead
  rw [hpb]

/-- The check of one word raises that phase's counter by one if the word is idle. -/
theorem countIdleWord_counter (i : BitVec 7) (s : State) (p q : Phase) :
    fourGet (countIdleWord i s p).coll.idleCount (phaseBits q) =
      fourGet s.coll.idleCount (phaseBits q) +
        (if q = p ∧ isIdleWord (pbRead q i s) = true then 1#8 else 0#8) := by
  unfold countIdleWord
  by_cases h : q = p
  · subst h
    cases isIdleWord (pbRead q i s) <;> simp
  · have hne : phaseBits q ≠ phaseBits p := fun e => h (phaseBits_inj e)
    cases isIdleWord (pbRead p i s) <;> simp [h, fourGet_fourSet_other _ _ hne]

theorem countIdleWords_counter (i : BitVec 7) (l : List Phase) (s : State) (q : Phase)
    (hl : l.Nodup) :
    fourGet (l.foldl (countIdleWord i) s).coll.idleCount (phaseBits q) =
      fourGet s.coll.idleCount (phaseBits q) +
        (if q ∈ l ∧ isIdleWord (pbRead q i s) = true then 1#8 else 0#8) := by
  induction l generalizing s with
  | nil => simp
  | cons p rest ih =>
    obtain ⟨hp, hrest⟩ := List.nodup_cons.1 hl
    rw [List.foldl_cons, ih _ hrest, countIdleWord_counter, pbRead_countIdleWord]
    by_cases h : q = p
    · subst h
      simp [hp]
    · simp [h]

/-- The idle check counts the idle words among those just written, at the idle-check points. -/
theorem checkIdle_counter (s : State) (q : Phase) :
    fourGet (checkIdle s).coll.idleCount (phaseBits q) =
      fourGet s.coll.idleCount (phaseBits q) +
        (if s.coll.dataBitCounter.toNat % 256 = 255 ∧
            q ∈ writtenPhases s.coll.phaseToggle s.sync.levels ∧
            isIdleWord (pbRead q (deinterleaveIndex s.coll.dataBitCounter) s) = true then 1#8
          else 0#8) := by
  unfold checkIdle
  by_cases h : s.coll.dataBitCounter.toNat % 256 = 255
  · rw [if_pos ((isIdleCheckPoint_iff _).2 h),
      countIdleWords_counter _ _ _ _ (writtenPhases_nodup _ _)]
    simp [h]
  · rw [if_neg fun e => h ((isIdleCheckPoint_iff _).1 e)]
    simp [h]

/-! ### One whole step -/

theorem pinToggle_toggle (s : State) : (pinToggle s).coll.phaseToggle = toggleUsed s := by
  obtain ⟨-, -, -, -, h1600, h3200⟩ := pinToggle_effect s
  unfold toggleUsed
  cases hb : s.sync.baud
  · simp [h1600 hb]
  · simp [h3200 hb]

/-- The bit that goes to a phase is the statement's, from the symbol rectified. -/
theorem bitOf_decodeSymbol (s : State) (q : Symbol) (p : Phase) :
    bitOf (decodeSymbol s.sync.polarity q) p = dataBit p (rectified s q) := by
  have hrect : rectify s.sync.polarity q = rectified s q := by
    unfold rectify rectified
    cases s.sync.polarity <;> rfl
  cases p <;> simp only [bitOf, decodeSymbol, hrect] <;> rfl

/-- What every word reads after a collector step. -/
theorem pbRead_collectSteps (d : SymbolBits) {s : State}
    (hi : pbIndexExists (deinterleaveIndex s.coll.dataBitCounter) = true)
    (hm : Memory.wf s.coll.pb = true) (p : Phase) (k : BitVec 7) :
    pbRead p k (collectSteps d s) =
      if stepWrites s p = true ∧ k = wordIndex s then enterTop (pbRead p k s) (bitOf d p)
      else pbRead p k s := by
  obtain ⟨same, hpb, -, hcount, -, -⟩ := pinToggle_effect s
  obtain ⟨-, -, -, -, hmem⟩ := collectSteps_effect d s
  have hread : pbRead p k (collectSteps d s) = pbRead p k (writeBits d (pinToggle s)) := by
    unfold pbRead
    rw [hmem]
  have hpin : pbRead p k (pinToggle s) = pbRead p k s := by
    unfold pbRead
    rw [hpb]
  rw [hread, pbRead_writeBits d (by rw [hcount]; exact hi) (by rw [hpb]; exact hm), hcount,
    pinToggle_toggle, same.sync, hpin, shiftInTop_eq_enterTop]
  simp only [stepWrites, wordIndex, decide_eq_true_eq]

/-- What every idle counter holds after a collector step. -/
theorem idleCount_collectSteps (d : SymbolBits) (s : State) (p : Phase) :
    fourGet (collectSteps d s).coll.idleCount (phaseBits p) =
      fourGet s.coll.idleCount (phaseBits p) +
        (if s.coll.dataBitCounter.toNat % 256 = 255 ∧ stepWrites s p = true ∧
            isIdleWord (pbRead p (wordIndex s) (collectSteps d s)) = true then 1#8
          else 0#8) := by
  obtain ⟨same, hpb, hidle, hcount, -, -⟩ := pinToggle_effect s
  obtain ⟨hw, hwi, hwt, hwc⟩ := writeBits_effect d (pinToggle s)
  obtain ⟨-, -, -, hcoll, hmem⟩ := collectSteps_effect d s
  have hread : pbRead p (wordIndex s) (collectSteps d s) =
      pbRead p (wordIndex s) (writeBits d (pinToggle s)) := by
    unfold pbRead
    rw [hmem]
  rw [hcoll, checkIdle_counter, hwi, hidle, hwc, hcount, hwt, pinToggle_toggle, hw.sync, same.sync,
    hread]
  simp only [stepWrites, wordIndex, decide_eq_true_eq]

theorem isIdleWord_iff (w : Word) :
    isIdleWord w = true ↔ w = 0x00000000#32 ∨ w = 0xFFFFFFFF#32 :=
  decide_eq_true_iff

/-- The collector's step for a symbol is the step of the statements, while no counter is at its
width. -/
theorem collectedStep_collectSteps (q : Symbol) {s : State}
    (hcount : s.coll.dataBitCounter.toNat ≤ 2815) (hm : Memory.wf s.coll.pb = true)
    (hidle : IdleCountsBounded s) :
    CollectedStep q s (collectSteps (decodeSymbol s.sync.polarity q) s) := by
  have hi := Sample.wordExists_of_le hcount
  obtain ⟨-, h1600, h3200, -, -⟩ := collectSteps_effect (decodeSymbol s.sync.polarity q) s
  have hstep : (s.coll.dataBitCounter + 1#12).toNat = s.coll.dataBitCounter.toNat + 1 := by
    rw [BitVec.toNat_add]
    exact Nat.mod_eq_of_lt (by simp; omega)
  refine ⟨fun p k => ?_, fun p => ?_, ?_, ?_⟩
  · rw [pbRead_collectSteps _ hi hm, bitOf_decodeSymbol]
  · obtain ⟨hle, -⟩ := hidle
    have hp := hle p
    rw [idleCount_collectSteps, BitVec.toNat_add]
    simp only [isIdleWord_iff]
    split <;> simp <;> omega
  · cases hb : s.sync.baud
    · simp [(h1600 hb).1]
    · simp [(h3200 hb).1]
  · cases hb : s.sync.baud
    · simp [(h1600 hb).2, hstep]
    · rw [(h3200 hb).2]
      cases s.coll.phaseToggle <;> simp [hstep]

end Sys2Proof.Proofs.CollectorStep
end

section
/-! PROOFS. SYM in FIW, SYNC2 and DATA (`45_state_machine.md` R243 to R250), and what SYM leaves
alone in every state. -/

namespace Sys2Proof.Proofs.Symbol

open Sys2Proof.Machine Sys2Proof.Safety Sys2Proof.Proofs.SymSync1 Sys2Proof.Proofs.HostCommands
  Sys2Proof.Proofs.Commands Sys2Proof.Proofs.Inversion Sys2Proof.Proofs.Sample
  Sys2Proof.Proofs.SampleStatements Sys2Proof.Proofs.EveryInstruction
  Sys2Proof.Proofs.CollectorStep

/-! ### The command -/

/-- What SYM answers when its handler leaves `t`. -/
def symAnswer (t : State) : State := setValue (symbolValueBits t) t

theorem exec_sym_of_ok {q : Symbol} {s t : State} (hc : s.configured = true)
    (h : symbolHandler q (beginResponse s) = .ok t) : exec (.sym q) s = .next (symAnswer t) := by
  rw [exec_sym_of_configured hc]
  exact complete_eq_next.2 ⟨t, h, rfl⟩

/-- SYM runs the handler of the state on entry on the bits of its symbol (`45_state_machine.md`
R240). -/
theorem exec_sym_of_state {q : Symbol} {s t : State} {st : FrameState} (hc : s.configured = true)
    (hst : s.frame.state = st)
    (h : handlerOf st (decodeSymbol s.sync.polarity q) (beginResponse s) = .ok t) :
    exec (.sym q) s = .next (symAnswer t) := by
  refine exec_sym_of_ok hc ?_
  unfold symbolHandler
  rw [beginResponse_frame, hst]
  exact h

/-- SYM runs to completion whenever its symbol finds its word (`20_memory.md` R71). -/
theorem exec_sym_writes (q : Symbol) {s : State} (hc : s.configured = true)
    (hdata : s.frame.state = .data → s.coll.dataBitCounter.toNat ≤ 2815) :
    ∃ t, handlerOf s.frame.state (decodeSymbol s.sync.polarity q) (beginResponse s) = .ok t ∧
      exec (.sym q) s = .next (symAnswer t) := by
  obtain ⟨t, ht⟩ := symbolHandler_answers q (s := beginResponse s) fun h =>
    wordExists_of_le (hdata h)
  exact ⟨t, ht, exec_sym_of_ok hc ht⟩

/-! ### FIW (`45_state_machine.md` R243 to R245) -/

theorem rectify_eq_rectified (s : State) (q : Symbol) :
    rectify s.sync.polarity q = rectified s q := by
  unfold rectify rectified
  cases s.sync.polarity <;> rfl

theorem toNat_succ {n : Nat} {x : BitVec n} (h : x.toNat + 1 < 2 ^ n) :
    (x + 1#n).toNat = x.toNat + 1 := by
  have h1 : 1 % 2 ^ n = 1 := Nat.mod_eq_of_lt (by omega)
  rw [BitVec.toNat_add, BitVec.toNat_ofNat, h1, Nat.mod_eq_of_lt h]

/-- The state with one FIW symbol counted and, after the dotting, shifted in. -/
def fiwShifted (q : Symbol) (s : State) : State :=
  { s with
    frame := { s.frame with fiwCount := s.frame.fiwCount + 1#6, fiwRaw := fiwAfter s q } }

theorem shiftFiw_eq (q : Symbol) {s : State} (h : s.frame.fiwCount.toNat ≤ 47) :
    shiftFiw (decodeSymbol s.sync.polarity q) s = fiwShifted q s := by
  have hcount : (s.frame.fiwCount + 1#6).toNat = s.frame.fiwCount.toNat + 1 :=
    toNat_succ (by omega)
  have hraw : (if Config.fiwDottingBits < (s.frame.fiwCount + 1#6).toNat then
      shiftInTop s.frame.fiwRaw (decodeSymbol s.sync.polarity q).bitA else s.frame.fiwRaw) =
      fiwAfter s q := by
    rw [hcount, shiftInTop_eq_enterTop]
    unfold fiwAfter
    rw [← rectify_eq_rectified]
    rfl
  unfold shiftFiw fiwShifted
  simp only [hraw]

theorem okResponse_answer {t : State} {es : List Event}
    (h : t.response = { Response.empty with events := es }) :
    (symAnswer t).response = { okResponse (symbolValueBits t) with events := es } := by
  rw [symAnswer, setValue_response, h]
  rfl

/-- Settles O39. -/
theorem symInFiwCollects : Obligations.SymInFiwCollects := by
  intro q s hc hst hlt
  have hshift : shiftFiw (decodeSymbol s.sync.polarity q) (beginResponse s) =
      fiwShifted q (beginResponse s) := shiftFiw_eq q (s := beginResponse s) (by simp; omega)
  have hcount : (s.frame.fiwCount + 1#6).toNat = s.frame.fiwCount.toNat + 1 :=
    toNat_succ (by omega)
  have hbelow : (fiwShifted q (beginResponse s)).frame.fiwCount.toNat ≠ 48 := by
    simp only [fiwShifted, beginResponse_frame, hcount]
    omega
  have hrun := handleFiw_below (hshift ▸ hbelow)
  rw [hshift] at hrun
  refine ⟨_, exec_sym_of_state hc hst (congrArg Except.ok hrun), rfl, rfl, rfl, rfl, ⟨rfl, rfl⟩, ?_⟩
  simp [symAnswer, fiwShifted, symbolValueBits, hst, frameStateCode, Response.empty, okResponse]

/-- A rejected FIW leaves `state` and its event, and is answered with code 0. -/
theorem rejectFiw_answer {cause : FiwRejection} {w : Word} {u : State}
    (h : u.response = Response.empty) :
    (symAnswer (rejectFiw cause w u)).frame = { u.frame with state := .sync1 } ∧
      (symAnswer (rejectFiw cause w u)).demod = u.demod ∧
      (symAnswer (rejectFiw cause w u)).response =
        { okResponse 0 with events := [.fiwRejected cause w] } := by
  refine ⟨rfl, rfl, okResponse_answer ?_⟩
  simp [rejectFiw, h, Response.empty]

/-- An accepted FIW leaves its fields, the demodulator's baud and its event, and is answered with
code 2. -/
theorem acceptFiw_answer {w : Word} {n : Nat} {u : State} (h : u.response = Response.empty) :
    (symAnswer (acceptFiw w n u)).frame =
        { u.frame with
          cycleNo := w.extractLsb' 4 4
          frameNo := w.extractLsb' 8 7
          sync2Count := 0
          state := .sync2 } ∧
      (symAnswer (acceptFiw w n u)).demod = { u.demod with baud := u.sync.baud } ∧
      (symAnswer (acceptFiw w n u)).response =
        { okResponse 2 with
          events := [.fiwAccepted (w.extractLsb' 4 4) (w.extractLsb' 8 7) w n] } := by
  refine ⟨rfl, rfl, okResponse_answer (t := acceptFiw w n u) ?_⟩
  simp [acceptFiw, h, Response.empty, fiwCycle, fiwFrame]

theorem checkFiw_kept (s : State) :
    (checkFiw s).sync = s.sync ∧ (checkFiw s).coll = s.coll ∧ SameConfiguration s (checkFiw s) := by
  rcases checkFiw_cases s with ⟨-, he⟩ | ⟨w, n, -, -, he⟩ | ⟨w, n, -, -, he⟩ <;> rw [he] <;>
    exact ⟨rfl, rfl, rfl, rfl⟩

theorem exec_sym_fiw_full {q : Symbol} {s : State} (hc : s.configured = true)
    (hst : s.frame.state = .fiw) (heq : s.frame.fiwCount.toNat = 47) :
    exec (.sym q) s = .next (symAnswer (checkFiw (fiwShifted q (beginResponse s)))) := by
  have hshift := shiftFiw_eq q (s := beginResponse s) (by simp; omega)
  have hfull : (fiwShifted q (beginResponse s)).frame.fiwCount.toNat = 48 := by
    have hcount := toNat_succ (x := s.frame.fiwCount) (by omega)
    simp only [fiwShifted, beginResponse_frame, hcount, heq]
  have hrun := handleFiw_full (hshift ▸ hfull)
  rw [hshift] at hrun
  exact exec_sym_of_state hc hst (congrArg Except.ok hrun)

/-- Settles O40: the three outcomes of the check. -/
theorem symInFiwChecks : Obligations.SymInFiwChecks := by
  intro q s hc hst heq
  have hcount : s.frame.fiwCount + 1#6 = 48 :=
    BitVec.eq_of_toNat_eq (by rw [toNat_succ (by omega), heq]; rfl)
  have hframe : (fiwShifted q (beginResponse s)).frame =
      { s.frame with fiwCount := 48, fiwRaw := fiwAfter s q } := by
    rw [← hcount]
    rfl
  have hdemod : (fiwShifted q (beginResponse s)).demod = s.demod := rfl
  have hsync : (fiwShifted q (beginResponse s)).sync = s.sync := rfl
  have hempty : (fiwShifted q (beginResponse s)).response = Response.empty := rfl
  obtain ⟨ksync, kcoll, kconf⟩ := checkFiw_kept (fiwShifted q (beginResponse s))
  refine ⟨_, exec_sym_fiw_full hc hst heq, ksync, kcoll, kconf, ?_, ?_⟩
  all_goals generalize fiwShifted q (beginResponse s) = u at hframe hdemod hsync hempty
  · intro hfix
    rw [checkFiw_of_none (by rw [hframe]; exact hfix)]
    obtain ⟨rframe, rdemod, rresp⟩ := rejectFiw_answer hempty
    exact ⟨by rw [rframe, hframe], rdemod.trans hdemod, by rw [rresp, hframe]⟩
  · intro w n hfix
    rw [checkFiw_of_some (by rw [hframe]; exact hfix)]
    constructor <;> intro hpass
    · rw [if_neg (by simp [hpass])]
      obtain ⟨rframe, rdemod, rresp⟩ := rejectFiw_answer (u := setFiwRaw w u) hempty
      exact ⟨by rw [rframe, setFiwRaw, hframe], rdemod.trans hdemod, rresp⟩
    · rw [if_pos hpass]
      obtain ⟨aframe, ademod, aresp⟩ := acceptFiw_answer (u := setFiwRaw w u) hempty
      refine ⟨by rw [aframe, setFiwRaw, hframe], ?_, aresp⟩
      rw [ademod, setFiwRaw, hdemod, hsync]

/-- Settles O41: the machine's sum of 4-bit fields is the sum of the nibbles modulo 16. -/
theorem fiwChecksumIsNibbleSum : Obligations.FiwChecksumIsNibbleSum := by
  intro w
  unfold fiwChecksumPasses nibbleSum
  rw [decide_eq_true_iff, ← BitVec.toNat_inj]
  simp only [BitVec.toNat_add, BitVec.extractLsb'_toNat, BitVec.toNat_setWidth,
    Nat.shiftRight_eq_div_pow, BitVec.toNat_ofNat]
  omega

/-! ### SYNC2 (`45_state_machine.md` R246) -/

theorem sync2Symbols_eq_sync2Bound (s : State) : sync2Symbols s.sync.baud = sync2Bound s := by
  unfold sync2Bound
  cases s.sync.baud <;> rfl

/-- What the answer keeps when the frame's data starts, and the cleared collector. -/
theorem startData_answer (u : State) :
    (symAnswer (startData u)).demod = u.demod ∧ (symAnswer (startData u)).sync = u.sync ∧
      SameConfiguration u (symAnswer (startData u)) ∧
      (symAnswer (startData u)).coll = Collector.reset :=
  ⟨rfl, rfl, ⟨rfl, rfl⟩, rfl⟩

/-- Settles O42. -/
theorem symInSync2 : Obligations.SymInSync2 := by
  intro q s hc hst hlt
  have hbound : sync2Bound s ≤ 80 := by
    unfold sync2Bound
    cases s.sync.baud <;> decide
  have hcount : (s.frame.sync2Count + 1#7).toNat = s.frame.sync2Count.toNat + 1 :=
    toNat_succ (by omega)
  have hsym := sync2Symbols_eq_sync2Bound s
  by_cases hend : s.frame.sync2Count.toNat + 1 = sync2Bound s
  · have hrun : handleSync2 (beginResponse s) = startData (countSync2 (beginResponse s)) :=
      handleSync2_at_bound (by simp only [beginResponse_frame, beginResponse_sync]; omega)
    obtain ⟨hdemod, hsync, hconf, hcoll⟩ := startData_answer (countSync2 (beginResponse s))
    have hexec := exec_sym_of_state (q := q) hc hst (congrArg Except.ok hrun)
    refine ⟨_, hexec, hdemod, hsync, hconf, fun hlt' => absurd hend (by omega), fun _ =>
      ⟨?_, pbRead_of_coll_reset hcoll, congrArg Collector.idleCount hcoll,
        congrArg Collector.phaseToggle hcoll, congrArg Collector.dataBitCounter hcoll, ?_⟩⟩
    · simp [symAnswer, countSync2]
    · simp [symAnswer, symbolValueBits, frameStateCode, countSync2, Response.empty, okResponse]
  · have hrun : handleSync2 (beginResponse s) = countSync2 (beginResponse s) :=
      handleSync2_off_bound (by simp only [beginResponse_frame, beginResponse_sync]; omega)
    refine ⟨_, exec_sym_of_state hc hst (congrArg Except.ok hrun), rfl, rfl, ⟨rfl, rfl⟩,
      fun _ => ⟨rfl, rfl, ?_⟩, fun heq => absurd heq hend⟩
    simp [symAnswer, symbolValueBits, frameStateCode, countSync2, hst, Response.empty, okResponse]

/-! ### DATA (`45_state_machine.md` R247, R248) -/

theorem dataSymbols_eq_dataBound (s : State) : dataSymbols s.sync.baud = dataBound s := by
  unfold dataBound
  cases s.sync.baud <;> rfl

/-- All active phases idle is the statement's test on the four counters. -/
theorem allActiveIdle_eq_activeIdle (s : State) :
    allActiveIdle s = activeIdle s.sync.baud s.sync.levels s.coll.idleCount := by
  unfold allActiveIdle activeIdle activePhases
  have hzero : Config.idleThreshold = 0 := rfl
  cases s.sync.baud <;> cases s.sync.levels <;> simp [hzero, fourGet, phaseBits]

/-- DATA answers the count after the collector's step. -/
theorem exec_sym_data (q : Symbol) {s : State} (hc : s.configured = true)
    (hst : s.frame.state = .data) (hcount : s.coll.dataBitCounter.toNat ≤ 2815) :
    exec (.sym q) s = .next (symAnswer
      (countData (collectSteps (decodeSymbol s.sync.polarity q) (beginResponse s)))) :=
  exec_sym_of_state hc hst (handleData_eq_ok.2 ⟨wordExists_of_le hcount, rfl⟩)

/-- A collector step is a statement about the collector and the synchronizer only. -/
theorem collectedStep_congr {q : Symbol} {s t u : State} (h : CollectedStep q s t)
    (hu : u.coll = t.coll) : CollectedStep q s u := by
  have hread : ∀ p k, pbRead p k u = pbRead p k t := pbRead_of_coll hu
  simpa only [CollectedStep, hread, hu] using h

theorem collectedStep_sym (q : Symbol) {s : State} (hcount : s.coll.dataBitCounter.toNat ≤ 2815)
    (hm : Memory.wf s.coll.pb = true) (hidle : IdleCountsBounded s) :
    CollectedStep q s (symAnswer
      (countData (collectSteps (decodeSymbol s.sync.polarity q) (beginResponse s)))) := by
  have hstep : CollectedStep q s
      (collectSteps (decodeSymbol s.sync.polarity q) (beginResponse s)) :=
    collectedStep_collectSteps q (s := beginResponse s) hcount hm hidle
  generalize collectSteps (decodeSymbol s.sync.polarity q) (beginResponse s) = u at hstep ⊢
  have hcoll : (symAnswer (countData u)).coll = u.coll := by
    rw [symAnswer, setValue_coll, countData_coll]
  exact collectedStep_congr hstep hcoll

/-- Settles O43. -/
theorem symInDataCollects : Obligations.SymInDataCollects := by
  intro q s hc hst hcount hm hidle
  exact ⟨_, exec_sym_data q hc hst hcount, collectedStep_sym q hcount hm hidle⟩

theorem countData_kept (u : State) :
    (countData u).sync = u.sync ∧ SameConfiguration u (countData u) := by
  rcases countData_cases u with ⟨h, -⟩ | ⟨h, -⟩ <;> rw [h] <;> exact ⟨rfl, rfl, rfl⟩

/-- An ended frame leaves `state`, the demodulator's baud and its event, and is answered with
code 0. -/
theorem endFrame_answer {idle full : Bool} {u : State} (h : u.response = Response.empty) :
    (symAnswer (endFrame idle full u)).frame = { u.frame with state := .sync1 } ∧
      (symAnswer (endFrame idle full u)).demod = { u.demod with baud := .b1600 } ∧
      (symAnswer (endFrame idle full u)).response =
        { okResponse 0 with
          events :=
            [.frameReady idle full u.sync.baud u.sync.levels u.sync.polarity
              u.frame.cycleNo u.frame.frameNo] } := by
  refine ⟨rfl, rfl, okResponse_answer (t := endFrame idle full u) ?_⟩
  simp [endFrame, frameReadyEvent, h, Response.empty]

/-- A symbol that leaves the frame going is answered with code 3. -/
theorem countDataSymbol_answer {u : State} (h : u.response = Response.empty)
    (hst : u.frame.state = .data) :
    (symAnswer (countDataSymbol u)).response = okResponse 3 := by
  have hr : (countDataSymbol u).response = { Response.empty with events := [] } := h
  rw [okResponse_answer hr]
  simp [symbolValueBits, countDataSymbol, hst, frameStateCode, okResponse]

/-- Settles O44. -/
theorem symInDataEndsFrame : Obligations.SymInDataEndsFrame := by
  intro q s hc hst hcount hlt
  have hbound : dataBound s ≤ 5632 := by
    unfold dataBound
    cases s.sync.baud <;> decide
  obtain ⟨same, -⟩ := collectSteps_effect (decodeSymbol s.sync.polarity q) (beginResponse s)
  have hstep := collectedStep_sym q (s := s) hcount
  have hexec := exec_sym_data q hc hst hcount
  generalize collectSteps (decodeSymbol s.sync.polarity q) (beginResponse s) = u at same hstep hexec
  obtain ⟨hconf, hfreq, hdemod, hsync, hframe, -, hempty, -⟩ := same
  rw [beginResponse_demod] at hdemod
  rw [beginResponse_sync] at hsync
  rw [beginResponse_frame] at hframe
  obtain ⟨ksync, kconf⟩ := countData_kept u
  have hfull : (u.frame.dataCount + 1#13).toNat = dataSymbols u.sync.baud ↔
      s.frame.dataCount.toNat + 1 = dataBound s := by
    rw [hframe, hsync, dataSymbols_eq_dataBound, toNat_succ (by omega)]
  have hidle : allActiveIdle u =
      activeIdle s.sync.baud s.sync.levels (symAnswer (countData u)).coll.idleCount := by
    rw [allActiveIdle_eq_activeIdle, hsync, symAnswer, setValue_coll, countData_coll]
  refine ⟨_, hexec, ksync.trans hsync, ⟨kconf.1.trans hconf, kconf.2.trans hfreq⟩, hstep, ?_, ?_⟩
  · intro hend
    rw [← hidle] at hend ⊢
    have hends : EndsFrame u := hend.imp (fun h => hfull.2 (of_decide_eq_true h)) id
    rw [countData_of_end hends, decide_eq_decide.2 hfull]
    obtain ⟨eframe, edemod, eresp⟩ := endFrame_answer (idle := allActiveIdle u)
      (full := decide (s.frame.dataCount.toNat + 1 = dataBound s)) (u := countDataSymbol u) hempty
    refine ⟨?_, ?_, ?_⟩
    · rw [eframe, countDataSymbol, hframe]
      rfl
    · rw [edemod, countDataSymbol, hdemod]
    · rw [eresp, countDataSymbol, hframe, hsync]
  · intro hnf hni
    rw [← hidle] at hni
    have hgoes : ¬EndsFrame u := by
      rintro (h | h)
      · exact of_decide_eq_false hnf (hfull.1 h)
      · exact absurd (h.symm.trans hni) (by decide)
    rw [countData_of_not_end hgoes]
    refine ⟨?_, hdemod, countDataSymbol_answer hempty (hframe ▸ hst)⟩
    rw [symAnswer, setValue_frame, countDataSymbol, hframe]
    rfl

/-! ### What every symbol keeps (`46_host_commands.md` R274, `45_state_machine.md` R250) -/

/-- The handler's own transition is the change of `state`, and its events are the answer's. -/
theorem symAnswer_transition {w : HandlerWrites} {s t : State}
    (htr : Transition s.frame.state w.next w.events)
    (ht : t = w.apply s.frame.state (beginResponse s)) :
    Transition s.frame.state (symAnswer t).frame.state (symAnswer t).response.events := by
  have hstate : (symAnswer t).frame.state = w.next := by
    rw [symAnswer, setValue_frame, ht, apply_frame, beginResponse_frame]
    by_cases h : w.next = s.frame.state
    · simp [h]
    · simp [h]
  have hevents : (symAnswer t).response.events = w.events := by
    rw [symAnswer, setValue_response, ht, apply_response]
    simp [Response.empty]
  rw [hstate, hevents]
  exact htr

/-- Settles O47. -/
theorem symMakesATransition : Obligations.SymMakesATransition := by
  intro q s hc hdata
  obtain ⟨t, ht, hexec⟩ := exec_sym_writes q hc hdata
  obtain ⟨w, htr, he, -⟩ := handlerOf_writes ht
  exact ⟨_, hexec, symAnswer_transition htr he⟩

theorem handleSync2_kept (s : State) :
    (handleSync2 s).demod = s.demod ∧ (handleSync2 s).sync = s.sync := by
  by_cases h : (s.frame.sync2Count + 1#7).toNat = sync2Symbols s.sync.baud
  · rw [handleSync2_at_bound h]
    exact ⟨rfl, rfl⟩
  · rw [handleSync2_off_bound h]
    exact ⟨rfl, rfl⟩

/-- The registers outside the state machine that the handler of each state leaves alone. -/
theorem handlerOf_kept {st : FrameState} {d : SymbolBits} {s t : State}
    (h : handlerOf st d s = .ok t) :
    (t.demod.baud ≠ s.demod.baud → st = .fiw ∨ st = .data) ∧ (st ≠ .sync1 → t.sync = s.sync) ∧
      (st = .sync1 ∨ st = .fiw → t.coll = s.coll) ∧
      (st = .sync2 → (s.frame.sync2Count + 1#7).toNat ≠ sync2Bound s → t.coll = s.coll) := by
  rcases handlerOf_cases h with ⟨rfl, rfl⟩ | ⟨rfl, rfl⟩ | ⟨rfl, rfl⟩ | ⟨rfl, -, rfl⟩
  · obtain ⟨hdemod, hcoll, -⟩ := handleSync1_frame d s
    simp [hdemod, hcoll]
  · obtain ⟨hcoll, hsync⟩ := handleFiw_same d s
    simp [hcoll, hsync]
  · obtain ⟨hdemod, hsync⟩ := handleSync2_kept s
    refine ⟨by simp [hdemod], fun _ => hsync, by simp, fun _ hoff => ?_⟩
    rw [handleSync2_off_bound (sync2Symbols_eq_sync2Bound s ▸ hoff)]
    rfl
  · obtain ⟨same, -⟩ := collectSteps_effect d s
    obtain ⟨hsync, -⟩ := countData_kept (collectSteps d s)
    simp [hsync.trans same.sync]

/-- In DATA only the words of the collector's step read differently. -/
theorem handlerOf_data_words {d : SymbolBits} {s t : State} (h : handlerOf .data d s = .ok t)
    (hm : Memory.wf s.coll.pb = true) {p : Phase} {k : BitVec 7}
    (hk : ¬(stepWrites s p = true ∧ k = wordIndex s)) : pbRead p k t = pbRead p k s := by
  obtain ⟨hi, rfl⟩ := handleData_eq_ok.1 h
  rw [pbRead_of_coll (countData_coll _), pbRead_collectSteps d hi hm, if_neg hk]

/-- Settles O46. -/
theorem symFrame : Obligations.SymFrame := by
  intro q s hc hdata
  obtain ⟨t, ht, hexec⟩ := exec_sym_writes q hc hdata
  obtain ⟨w, htr, he, -⟩ := handlerOf_writes ht
  obtain ⟨kbaud, ksync, kcoll, ksync2⟩ := handlerOf_kept ht
  have hdemod : t.demod = { s.demod with baud := t.demod.baud } := by rw [he, apply_demod]; rfl
  have hresp : t.response = { Response.empty with events := w.events } := by
    rw [he, apply_response]
    rfl
  have hanswer := okResponse_answer hresp
  refine ⟨_, hexec, ⟨?_, ?_⟩, hdemod, kbaud, ksync, kcoll, ksync2, fun hst hm p k hk => ?_,
    ?_, ?_, ?_, ?_⟩
  · rw [symAnswer, setValue_configured, he, apply_configured, beginResponse_configured]
  · rw [symAnswer, setValue_sampleFreq, he, apply_sampleFreq, beginResponse_sampleFreq]
  · have hword := handlerOf_data_words (s := beginResponse s) (hst ▸ ht) hm hk
    exact hword
  · rw [hanswer]
    rfl
  · rw [hanswer]
    rfl
  · rw [hanswer]
    rfl
  · intro m f hmem
    rw [hanswer] at hmem
    exact ((transition_events htr).2 _ hmem .crossings m f).2 rfl

/-! ### Where no word exists -/

theorem collect_of_no_word {s : State} (h : 2815 < s.coll.dataBitCounter.toNat) (d : SymbolBits) :
    ∃ p, collect d s = .error (.noSuchPhaseWord p (wordIndex s)) := by
  have hnone : pbIndexExists (deinterleaveIndex s.coll.dataBitCounter) = false := by
    have hindex := deinterleaveIndex_toNat s.coll.dataBitCounter
    have h88 : Config.phaseWords = 88 := rfl
    exact decide_eq_false (by omega)
  unfold collect
  exact ⟨_, if_neg (by simp [hnone])⟩

theorem handleData_of_no_word {s : State} (h : 2815 < s.coll.dataBitCounter.toNat)
    (d : SymbolBits) :
    ∃ p, handleData d s = .error (.noSuchPhaseWord p (wordIndex s)) := by
  obtain ⟨p, hp⟩ := collect_of_no_word h d
  unfold handleData
  exact ⟨p, by rw [hp]⟩

/-- Settles O45. -/
theorem missingWordStops : Obligations.MissingWordStops := by
  intro s h
  have hstop := handleData_of_no_word (s := beginResponse s) h
  refine ⟨fun q hc hst => ?_, ?_⟩
  · obtain ⟨p, hp⟩ := hstop (decodeSymbol s.sync.polarity q)
    refine ⟨p, ?_⟩
    have hrun : symbolHandler q (beginResponse s) = .error (.noSuchPhaseWord p (wordIndex s)) := by
      unfold symbolHandler
      rw [beginResponse_frame, hst]
      exact hp
    rw [exec_sym_of_configured hc, hrun]
    rfl
  · obtain ⟨p, hp⟩ := hstop s.symbolIn
    have hrun : handlerOf .data s.symbolIn (beginResponse s) =
        .error (.noSuchPhaseWord p (wordIndex s)) := hp
    refine ⟨p, ?_⟩
    change runHandler .data s = _
    unfold runHandler
    rw [hrun]
    rfl

end Sys2Proof.Proofs.Symbol
end

section
/-! PROOFS. The two polarities (`43_synchronizer.md` R203, R207, R209 (b)): at most one of them is
accepted, and a block that receives every symbol inverted runs through the twin states. -/

namespace Sys2Proof.Proofs.Polarities

open Sys2Proof.Machine Sys2Proof.Safety Sys2Proof.Proofs.SymSync1 Sys2Proof.Proofs.Commands
  Sys2Proof.Proofs.Inversion Sys2Proof.Proofs.Encoding Sys2Proof.Proofs.Symbol

/-! ### One polarity accepts -/

theorem popcount_not_self (x : BitVec 32) : popcount (x ^^^ ~~~x) = 32 := by
  have h : x ^^^ ~~~x = BitVec.allOnes 32 := by
    rw [BitVec.not_def, BitVec.xor_comm (BitVec.allOnes 32), ← BitVec.xor_assoc, BitVec.xor_self,
      BitVec.zero_xor]
  rw [h]
  decide

/-- A marker field and its complement differ in 32 bits, so they are not both within distance 3 of
the marker. -/
theorem acceptsSync_not {b : BitVec 64} (h : acceptsSync b = true) :
    acceptsSync (~~~b) = false := by
  rw [← accepts_eq_acceptsSync] at h ⊢
  obtain ⟨hmark, -⟩ := of_decide_eq_true h
  refine decide_eq_false fun hboth => ?_
  obtain ⟨hnot, -⟩ := hboth
  have hfield : (~~~b).extractLsb' 16 32 = ~~~(b.extractLsb' 16 32) := by
    apply BitVec.eq_of_getLsbD_eq
    intro i hi
    simp [hi]
    omega
  rw [hfield, BitVec.xor_comm] at hnot
  rw [BitVec.xor_comm] at hmark
  have htri := hamming_triangle (b.extractLsb' 16 32) (~~~(b.extractLsb' 16 32)) 0xA6C6AAAA#32
  rw [popcount_not_self] at htri
  omega

/-- Settles O38. -/
theorem onePolarityAccepts : Obligations.OnePolarityAccepts := by
  intro b h
  rw [accepts_eq_acceptsSync] at h ⊢
  exact acceptsSync_not h

/-! ### Inverted symbols -/

/-- An inverted symbol at the other polarity rectifies to the same symbol; its sync bit is the
other one. -/
theorem decodeSymbol_inverted (p : Polarity) (q : Symbol) :
    decodeSymbol (flipPolarity p) (3 - q) =
      { decodeSymbol p q with
        syncBit := !(decodeSymbol p q).syncBit, lockPair := symbolLockPair (3 - q) } := by
  have key : ∀ x : Fin 4, ∀ p : Polarity,
      rectify (flipPolarity p) (3 - BitVec.ofFin x) = rectify p (BitVec.ofFin x) ∧
        symbolSyncBit (3 - BitVec.ofFin x) = !symbolSyncBit (BitVec.ofFin x) := by
    intro x p
    cases p <;> revert x <;> decide
  obtain ⟨hrect, hsync⟩ := key q.toFin p
  unfold decodeSymbol
  rw [show BitVec.ofFin q.toFin = q from rfl] at hrect hsync
  rw [hrect, hsync]

theorem shiftInBottom_not (b : BitVec 64) (bit : Bool) :
    shiftInBottom (~~~b) (!bit) = ~~~(shiftInBottom b bit) := by
  apply BitVec.eq_of_getLsbD_eq
  intro i hi
  unfold shiftInBottom
  cases bit <;> cases i <;> simp_all

/-- The complement of a buffer matches at the other polarity, on the same buffer value. -/
theorem matchSync_not (b : BitVec 64) :
    matchSync (~~~b) = (matchSync b).map fun r => (flipPolarity r.1, r.2) := by
  unfold matchSync
  rw [BitVec.not_not]
  cases hb : acceptsSync b with
  | true =>
    rw [acceptsSync_not hb]
    rfl
  | false => cases acceptsSync (~~~b) <;> rfl

/-! ### The handlers in the twin state -/

/-- A function of the state that goes from twin states to twin states. -/
def KeepsTwin (f : State → State) : Prop := ∀ s, f (invertedTwin s) = invertedTwin (f s)

theorem keepsTwin_comp {f g : State → State} (hf : KeepsTwin f) (hg : KeepsTwin g) :
    KeepsTwin fun s => f (g s) := fun s => (congrArg f (hg s)).trans (hf (g s))

theorem keepsTwin_ite {p : State → Prop} [DecidablePred p] {f : State → State}
    (hp : ∀ s, p (invertedTwin s) ↔ p s) (hf : KeepsTwin f) :
    KeepsTwin fun s => if p s then f s else s := by
  intro s
  by_cases h : p s
  · simp only [if_pos h, if_pos ((hp s).2 h), hf s]
  · simp only [if_neg h, if_neg (mt (hp s).1 h)]

section
variable (s : State)

@[simp] theorem twin_baud : (invertedTwin s).sync.baud = s.sync.baud := rfl
@[simp] theorem twin_levels : (invertedTwin s).sync.levels = s.sync.levels := rfl
@[simp] theorem twin_coll : (invertedTwin s).coll = s.coll := rfl

end

theorem twin_emit {e e' : Event} (h : e' = flipEvent e) (s : State) :
    emit e' (invertedTwin s) = invertedTwin (emit e s) := by
  simp [emit, invertedTwin, h]

/-- The collector reads neither the buffer nor the polarity (`44_collector.md` R229). -/
theorem keepsTwin_collectSteps (d : SymbolBits) : KeepsTwin (collectSteps d) := by
  have hpin : KeepsTwin pinToggle := by
    intro s
    unfold pinToggle
    rw [twin_baud]
    cases s.sync.baud <;> rfl
  have hwrite : KeepsTwin (writeBits d) := by
    intro s
    unfold writeBits
    simp only [twin_levels, twin_coll]
    cases s.coll.phaseToggle <;> cases s.sync.levels <;> rfl
  have hword : ∀ i p s,
      countIdleWord i (invertedTwin s) p = invertedTwin (countIdleWord i s p) := by
    intro i p s
    have hread : pbRead p i (invertedTwin s) = pbRead p i s := rfl
    unfold countIdleWord
    rw [hread]
    split <;> rfl
  have hwords : ∀ i (l : List Phase), KeepsTwin fun s => l.foldl (countIdleWord i) s := by
    intro i l
    induction l with
    | nil => exact fun s => rfl
    | cons p rest ih => exact keepsTwin_comp (g := fun s => countIdleWord i s p) ih (hword i p)
  have hcheck : KeepsTwin checkIdle := by
    have hcount : KeepsTwin fun s => (writtenPhases s.coll.phaseToggle s.sync.levels).foldl
        (countIdleWord (deinterleaveIndex s.coll.dataBitCounter)) s := fun s => hwords _ _ s
    exact keepsTwin_ite (fun _ => Iff.rfl) hcount
  have htoggle : KeepsTwin updateToggle := by
    intro s
    unfold updateToggle
    simp only [twin_baud, twin_coll]
    cases s.coll.phaseToggle <;> cases s.sync.baud <;> rfl
  have hadvance : KeepsTwin advanceBitCounter := by
    exact keepsTwin_ite (fun _ => Iff.rfl) fun _ => rfl
  have hall := keepsTwin_comp hadvance
    (keepsTwin_comp htoggle (keepsTwin_comp hcheck (keepsTwin_comp hwrite hpin)))
  exact hall

theorem keepsTwin_countData : KeepsTwin countData := by
  have hend : ∀ idle full, KeepsTwin (endFrame idle full) := fun idle full s =>
    congrArg (fun u => setFrameState .sync1 (setBaud .b1600 u))
      (twin_emit (e := frameReadyEvent idle full s) rfl s)
  intro s
  have hsame : EndsFrame (invertedTwin s) ↔ EndsFrame s := Iff.rfl
  by_cases h : EndsFrame s
  · rw [countData_of_end h, countData_of_end (hsame.2 h)]
    exact hend _ _ (countDataSymbol s)
  · rw [countData_of_not_end h, countData_of_not_end (mt hsame.1 h)]
    rfl

theorem keepsTwin_handleSync2 : KeepsTwin handleSync2 := by
  intro s
  by_cases h : (s.frame.sync2Count + 1#7).toNat = sync2Symbols s.sync.baud
  · rw [handleSync2_at_bound h, handleSync2_at_bound (s := invertedTwin s) h]
    rfl
  · rw [handleSync2_off_bound h, handleSync2_off_bound (s := invertedTwin s) h]
    rfl

theorem keepsTwin_checkFiw : KeepsTwin checkFiw := by
  have hreject : ∀ c w, KeepsTwin (rejectFiw c w) := fun c w s =>
    congrArg (setFrameState .sync1) (twin_emit (e := .fiwRejected c w) rfl s)
  have haccept : ∀ w n, KeepsTwin (acceptFiw w n) := by
    intro w n s
    simp [acceptFiw, invertedTwin, emit, setBaud, flipEvent]
  intro s
  cases hfix : fixErrors s.frame.fiwRaw with
  | none =>
    rw [checkFiw_of_none hfix, checkFiw_of_none (s := invertedTwin s) hfix]
    exact hreject _ _ s
  | some r =>
    rw [checkFiw_of_some (n := r.2) hfix, checkFiw_of_some (s := invertedTwin s) (n := r.2) hfix]
    split
    · exact haccept _ _ (setFiwRaw r.1 s)
    · exact hreject _ _ (setFiwRaw r.1 s)

theorem keepsTwin_handleFiw (d : SymbolBits) : KeepsTwin (handleFiw d) := by
  intro s
  by_cases h : (shiftFiw d s).frame.fiwCount.toNat = 48
  · rw [handleFiw_full h, handleFiw_full (s := invertedTwin s) h]
    exact keepsTwin_checkFiw (shiftFiw d s)
  · rw [handleFiw_below h, handleFiw_below (s := invertedTwin s) h]
    rfl

/-- SYNC1 on the other sync bit finds the same sync word at the other polarity. -/
theorem handleSync1_twin {d d' : SymbolBits} (hd : d'.syncBit = !d.syncBit) (s : State) :
    handleSync1 d' (invertedTwin s) = invertedTwin (handleSync1 d s) := by
  have hbuf : shiftInBottom (invertedTwin s).sync.syncBuf d'.syncBit =
      ~~~(shiftInBottom s.sync.syncBuf d.syncBit) := by
    rw [hd]
    exact shiftInBottom_not _ _
  have hshift : shiftSyncBuf d'.syncBit (invertedTwin s) =
      invertedTwin (shiftSyncBuf d.syncBit s) := by
    unfold shiftSyncBuf
    rw [hbuf]
    rfl
  have hflip := matchSync_not (shiftInBottom s.sync.syncBuf d.syncBit)
  rw [← hbuf] at hflip
  rcases handleSync1_cases d s with ⟨pol, b, hm, he⟩ | ⟨hm, he⟩
  · rw [hm] at hflip
    rw [handleSync1_of_match hflip, he, hshift]
    exact congrArg startFiw (twin_emit
      (e := syncFoundEvent b (recordMatch pol b (shiftSyncBuf d.syncBit s))) rfl
      (recordMatch pol b (shiftSyncBuf d.syncBit s)))
  · rw [hm] at hflip
    rw [handleSync1_of_no_match hflip, he, hshift]

/-- A handler on the bits of the inverted symbol, from the twin state, goes to the twin state. -/
theorem handlerOf_twin {st : FrameState} {d d' : SymbolBits} {s t : State}
    (hd : d' = { d with syncBit := !d.syncBit, lockPair := d'.lockPair })
    (h : handlerOf st d s = .ok t) :
    handlerOf st d' (invertedTwin s) = .ok (invertedTwin t) := by
  rcases handlerOf_cases h with ⟨rfl, rfl⟩ | ⟨rfl, rfl⟩ | ⟨rfl, rfl⟩ | ⟨rfl, hi, rfl⟩
  · exact congrArg Except.ok (handleSync1_twin (by rw [hd]) s)
  · rw [hd]
    exact congrArg Except.ok (keepsTwin_handleFiw d s)
  · exact congrArg Except.ok (keepsTwin_handleSync2 s)
  · rw [hd]
    exact handleData_eq_ok.2
      ⟨hi, (keepsTwin_comp keepsTwin_countData (keepsTwin_collectSteps d) s).symm⟩

/-- Settles O48. -/
theorem invertedSymbolsGiveTheTwin : Obligations.InvertedSymbolsGiveTheTwin := by
  intro q s t h
  cases hc : s.configured with
  | false =>
    rw [exec_sym_unconfigured hc] at h
    rw [exec_sym_unconfigured (s := invertedTwin s) hc, ← Host.Outcome.next.inj h]
    rfl
  | true =>
    rw [exec_sym_of_configured hc] at h
    obtain ⟨u, hu, rfl⟩ := complete_eq_next.1 h
    have htwin := handlerOf_twin (d' := decodeSymbol (flipPolarity s.sync.polarity) (3 - q))
      (decodeSymbol_inverted s.sync.polarity q) hu
    exact exec_sym_of_ok (s := invertedTwin s) hc htwin

end Sys2Proof.Proofs.Polarities
end

section
/-! PROOFS. What a list of bits or symbols leaves in a shift register (`20_memory.md` R73,
`30_encoding.md` R100), and the row a sync match decodes to (`43_synchronizer.md` R205, R206). -/

namespace Sys2Proof.Proofs.ShiftRegisters

open Sys2Proof.Machine Sys2Proof.Safety Sys2Proof.Proofs.SymSync1 Sys2Proof.Proofs.Commands
  Sys2Proof.Proofs.Symbol

/-! ### Collected words -/

theorem getLsbD_shiftInTop {w : Word} {bit : Bool} {k : Nat} (h : k < 32) :
    (shiftInTop w bit).getLsbD k = if k = 31 then bit else w.getLsbD (k + 1) := by
  have htop : (0x80000000#32).getLsbD k = decide (k = 31) := by
    have hbits : ∀ i : Fin 32, (0x80000000#32).getLsbD i.val = decide (i.val = 31) := by decide
    exact hbits ⟨k, h⟩
  unfold shiftInTop
  rw [BitVec.getLsbD_or, BitVec.getLsbD_ushiftRight, Nat.add_comm 1 k]
  by_cases hk : k = 31
  · subst hk
    cases bit <;> simp
  · cases bit <;> simp [htop, hk]

/-- After `n` insertions bit `k` is what was in bit `k + n`, or the insertion that came there. -/
theorem getLsbD_foldl_shiftInTop {bits : List Bool} {w : Word} {k : Nat} (h : k < 32) :
    bits.length ≤ 32 →
    (bits.foldl shiftInTop w).getLsbD k =
      if k + bits.length < 32 then w.getLsbD (k + bits.length)
      else bits.getD (k + bits.length - 32) false := by
  induction bits generalizing w with
  | nil => intro _; simp [h]
  | cons b rest ih =>
    intro hlen
    rw [List.length_cons] at hlen ⊢
    rw [List.foldl_cons, ih (by omega)]
    by_cases hin : k + rest.length < 32
    · rw [if_pos hin, getLsbD_shiftInTop hin]
      by_cases hlast : k + rest.length = 31
      · have hhere : k + (rest.length + 1) - 32 = 0 := by omega
        rw [if_pos hlast, if_neg (by omega), hhere, List.getD_cons_zero]
      · rw [if_neg hlast, if_pos (by omega), Nat.add_assoc]
    · have hnext : k + (rest.length + 1) - 32 = (k + rest.length - 32) + 1 := by omega
      rw [if_neg hin, if_neg (by omega), hnext, List.getD_cons_succ]

/-- Settles O50. -/
theorem thirtyTwoInsertionsFillAWord : Obligations.ThirtyTwoInsertionsFillAWord := by
  intro w bits hlen k hk
  rw [getLsbD_foldl_shiftInTop hk (by omega), if_neg (by omega), hlen, Nat.add_sub_cancel]

/-! ### The lock buffer -/

/-- A symbol's pair enters the lock buffer at the bottom (`42_demodulator.md` R161). -/
def enterPair (b : BitVec 64) (q : Symbol) : BitVec 64 := (b <<< 2) ||| (q ^^^ 1).setWidth 64

/-- Pair `j` of a buffer, counted from the pair that entered last. -/
def pairAt (b : BitVec 64) (j : Nat) : BitVec 2 := b.extractLsb' (2 * j) 2

theorem pairAt_zero_enterPair (b : BitVec 64) (q : Symbol) :
    pairAt (enterPair b q) 0 = q ^^^ 1 := by
  apply BitVec.eq_of_getLsbD_eq
  intro i hi
  simp [pairAt, enterPair, hi]
  omega

theorem pairAt_succ_enterPair (b : BitVec 64) (q : Symbol) {j : Nat} (h : j + 1 < 32) :
    pairAt (enterPair b q) (j + 1) = pairAt b j := by
  apply BitVec.eq_of_getLsbD_eq
  intro i hi
  have hhigh : ¬2 * (j + 1) + i < 2 := by omega
  have hin : 2 * (j + 1) + i < 64 := by omega
  have hshift : 2 * (j + 1) + i - 2 = 2 * j + i := by omega
  have hlow : 2 * j + i < 64 := by omega
  have hnone : q.getLsbD (2 * (j + 1) + i) = false := BitVec.getLsbD_of_ge q _ (by omega)
  simp [pairAt, enterPair, hi, hhigh, hin, hshift, hlow, hnone]

theorem pairAt_foldl_of_buffer {qs : List Symbol} {b : BitVec 64} {j : Nat} :
    j + qs.length < 32 → pairAt (qs.foldl enterPair b) (j + qs.length) = pairAt b j := by
  induction qs generalizing b j with
  | nil => exact fun _ => rfl
  | cons q rest ih =>
    intro h
    rw [List.length_cons] at h ⊢
    have hassoc : j + (rest.length + 1) = (j + 1) + rest.length := by omega
    rw [List.foldl_cons, hassoc, ih (by omega), pairAt_succ_enterPair b q (by omega)]

/-- Symbol `k` of the list is, as a pair, as many places up as symbols came after it. -/
theorem pairAt_foldl {qs : List Symbol} {b : BitVec 64} {k : Nat} :
    qs.length ≤ 32 → k < qs.length →
      pairAt (qs.foldl enterPair b) (qs.length - 1 - k) = qs.getD k 0 ^^^ 1 := by
  induction qs generalizing b k with
  | nil => intro _ h; exact absurd h (Nat.not_lt_zero k)
  | cons q rest ih =>
    intro hlen hk
    rw [List.length_cons] at hlen hk ⊢
    rw [List.foldl_cons]
    cases k with
    | zero =>
      have hplace := pairAt_foldl_of_buffer (qs := rest) (b := enterPair b q) (j := 0) (by omega)
      rw [Nat.zero_add, pairAt_zero_enterPair] at hplace
      simpa using hplace
    | succ k =>
      have hplace := ih (b := enterPair b q) (k := k) (by omega) (by omega)
      have hindex : rest.length + 1 - 1 - (k + 1) = rest.length - 1 - k := by omega
      rw [hindex, hplace, List.getD_cons_succ]

/-- 48 bits are 24 pairs. -/
theorem extract48_eq_iff (x c : BitVec 64) :
    x.extractLsb' 0 48 = c.extractLsb' 0 48 ↔ ∀ j < 24, pairAt x j = pairAt c j := by
  constructor
  · intro h j hj
    have hsub : ∀ y : BitVec 64, pairAt y j = (y.extractLsb' 0 48).extractLsb' (2 * j) 2 := by
      intro y
      apply BitVec.eq_of_getLsbD_eq
      intro i hi
      simp [pairAt, hi]
      omega
    rw [hsub, hsub, h]
  · intro h
    apply BitVec.eq_of_getLsbD_eq
    intro i hi
    have hbit : ∀ y : BitVec 64,
        (y.extractLsb' 0 48).getLsbD i = (pairAt y (i / 2)).getLsbD (i % 2) := by
      intro y
      have hi2 : 2 * (i / 2) + i % 2 = i := Nat.div_add_mod i 2
      have hmod : i % 2 < 2 := Nat.mod_lt i (by decide)
      simp [pairAt, hi, hmod, hi2]
    rw [hbit, hbit, h (i / 2) (by omega)]

/-- The two contents of the lock pattern, pair by pair (`30_encoding.md` R100). -/
theorem lockPattern_pairs :
    (∀ j < 24, pairAt 0x666666666666#64 j = if j % 2 = 0 then 2 else 1) ∧
      ∀ j < 24, pairAt 0x999999999999#64 j = if j % 2 = 0 then 1 else 2 := by
  decide

/-- Twenty-four symbols leave alternating pairs exactly when they alternate. -/
theorem alternates_iff {b : BitVec 64} {qs : List Symbol} (hlen : qs.length = 24) (q : Symbol)
    {even odd : BitVec 2} (heven : odd = q ^^^ 1) (hodd : even = (3 - q) ^^^ 1) :
    (∀ j < 24, pairAt (qs.foldl enterPair b) j = if j % 2 = 0 then even else odd) ↔
      ∀ k : Nat, k < 24 → qs.getD k 0 = if k % 2 = 0 then q else 3 - q := by
  have hplace : ∀ k < 24, pairAt (qs.foldl enterPair b) (23 - k) = qs.getD k 0 ^^^ 1 := by
    intro k hk
    have h := pairAt_foldl (qs := qs) (b := b) (k := k) (by omega) (by omega)
    rwa [hlen] at h
  have hpair : ∀ k < 24, (if (23 - k) % 2 = 0 then even else odd) =
      (if k % 2 = 0 then q else 3 - q) ^^^ 1 := by
    intro k hk
    by_cases hk2 : k % 2 = 0
    · rw [if_pos hk2, if_neg (by omega), heven]
    · rw [if_neg hk2, if_pos (by omega), hodd]
  constructor
  · intro h k hk
    have hj := h (23 - k) (by omega)
    rw [hplace k hk, hpair k hk] at hj
    exact (BitVec.xor_left_inj 1).1 hj
  · intro h j hj
    have hk := hplace (23 - j) (by omega)
    have hback : 23 - (23 - j) = j := by omega
    rw [h (23 - j) (by omega), ← hpair (23 - j) (by omega), hback] at hk
    exact hk

/-- Settles O51. -/
theorem lockPatternIsAlternation : Obligations.LockPatternIsAlternation := by
  intro b qs hlen
  change lockPattern (qs.foldl enterPair b) = true ↔ _
  obtain ⟨hsix, hnine⟩ := lockPattern_pairs
  have hzero : (qs.foldl enterPair b).extractLsb' 0 48 = 0x666666666666#48 ↔
      ∀ k : Nat, k < 24 → qs.getD k 0 = if k % 2 = 0 then (0 : Symbol) else 3 - 0 := by
    rw [← alternates_iff (b := b) hlen 0 (even := 2) (odd := 1) rfl rfl]
    refine (extract48_eq_iff _ 0x666666666666#64).trans ?_
    exact forall₂_congr fun j hj => by rw [hsix j hj]
  have hthree : (qs.foldl enterPair b).extractLsb' 0 48 = 0x999999999999#48 ↔
      ∀ k : Nat, k < 24 → qs.getD k 0 = if k % 2 = 0 then (3 : Symbol) else 3 - 3 := by
    rw [← alternates_iff (b := b) hlen 3 (even := 1) (odd := 2) rfl rfl]
    refine (extract48_eq_iff _ 0x999999999999#64).trans ?_
    exact forall₂_congr fun j hj => by rw [hnine j hj]
  unfold lockPattern
  rw [decide_eq_true_iff, hzero, hthree]
  constructor
  · rintro (h | h)
    · exact ⟨0, Or.inl rfl, h⟩
    · exact ⟨3, Or.inr rfl, h⟩
  · rintro ⟨q, rfl | rfl, h⟩
    · exact Or.inl h
    · exact Or.inr h

/-! ### The row of a received code -/

/-- The row a code decodes to records the mode the machine records at a match
(`43_synchronizer.md` R205, R206). -/
theorem exec_decodeSyncCode (c : BitVec 16) (s : State) :
    exec (decodeSyncCode c) s =
      .next (recordMode c (modeOfCode c).1 (modeOfCode c).2 (beginResponse s)) := by
  unfold decodeSyncCode
  split_ifs with h1 h2 h3 h4 h5
  all_goals
    have hmode : modeOfCode c = ((knownMode c).getD (.b1600, .two)) := rfl
    simp [knownMode, modeTable, *] at hmode
    rw [hmode]
    rfl

/-- Settles O53. -/
theorem syncMatchUsesItsRow : Obligations.SyncMatchUsesItsRow := by
  intro q s hc hst hfound
  obtain ⟨pol, b, hb⟩ := hfound
  have hm := (foundSync_iff_matchSync _ pol b).1 hb
  rw [bufferAfter_eq_shiftInBottom] at hm
  have hexec := exec_sym_of_state hc hst (congrArg Except.ok (handleSync1_of_match
    (d := decodeSymbol s.sync.polarity q) (s := beginResponse s) hm))
  have hcode : ((codeHigh b).setWidth 32).setWidth 16 = codeHigh b :=
    BitVec.setWidth_setWidth_of_le _ (by decide)
  refine ⟨_, _, hexec, exec_decodeSyncCode _ _, rfl, rfl, rfl, ?_, rfl, rfl⟩
  simp [symAnswer, recordMatch, recordMode]

end Sys2Proof.Proofs.ShiftRegisters
end

section
/-! PROOFS. The symbol rows and the state rows, run on their own, against SYM
(`30_encoding.md` R91, R108, `45_state_machine.md` R240 to R248). -/

namespace Sys2Proof.Proofs.Rows

open Sys2Proof.Machine Sys2Proof.Safety Sys2Proof.Proofs.SymSync1 Sys2Proof.Proofs.Commands
  Sys2Proof.Proofs.Inversion Sys2Proof.Proofs.Sample Sys2Proof.Proofs.SampleStatements
  Sys2Proof.Proofs.EveryInstruction Sys2Proof.Proofs.CollectorStep Sys2Proof.Proofs.Symbol

/-- The row of a symbol latches the symbol's four bits (`30_encoding.md` R91). -/
theorem exec_symbolRow (q : Symbol) (s : State) :
    exec (decode (.symbol q)) s =
      .next { beginResponse s with symbolIn := decodeSymbol s.sync.polarity q } := by
  have hrow : ∀ r : Symbol, exec (decode (.symbol r)) s = runSymbol r s := by
    intro r
    have hfour : ∀ x : Fin 4, exec (decode (.symbol (BitVec.ofFin x))) s =
        runSymbol (BitVec.ofFin x) s := by
      intro x
      fin_cases x <;> rfl
    exact hfour r.toFin
  exact hrow q

/-- The row of a state code runs the handler of its state on the latch (`30_encoding.md` R108). -/
theorem exec_stateRow (st : FrameState) (s : State) :
    exec (decode (.stateCode (frameStateCode st))) s =
      complete (handlerOf st s.symbolIn (beginResponse s)) id := by
  cases st <;> rfl

theorem exec_stateRow_of_ok {st : FrameState} {s t : State}
    (h : handlerOf st s.symbolIn (beginResponse s) = .ok t) :
    exec (decode (.stateCode (frameStateCode st))) s = .next t := by
  rw [exec_stateRow, h]
  rfl

/-- Settles O55: the row of `state` finds in the latch what SYM gives its handler. -/
theorem symIsSymbolRowThenStateRow : Obligations.SymIsSymbolRowThenStateRow := by
  intro q s hc hdata
  obtain ⟨t, ht, hexec⟩ := exec_sym_writes q hc hdata
  obtain ⟨w, -, he, hrun⟩ := handlerOf_writes ht
  have hrow := hrun (beginResponse { beginResponse s with
    symbolIn := decodeSymbol s.sync.polarity q })
  refine ⟨_, _, _, hexec, exec_symbolRow q s, exec_stateRow_of_ok hrow, ?_, ?_⟩
  · rw [he]
    exact ⟨rfl, rfl, rfl, rfl, rfl, rfl⟩
  · rw [he]
    rfl

/-! ### The registers of each row -/

/-- What a handler of SYNC1 writes of the state machine (`45_state_machine.md` R242). -/
theorem handleSync1_registers (d : SymbolBits) (s : State) :
    (handleSync1 d s).sync.syncBuf = shiftInBottom s.sync.syncBuf d.syncBit ∧
      (handleSync1 d s).frame =
        { s.frame with
          fiwCount := (handleSync1 d s).frame.fiwCount
          fiwRaw := (handleSync1 d s).frame.fiwRaw
          state := (handleSync1 d s).frame.state } := by
  rcases handleSync1_cases d s with ⟨pol, b, -, h⟩ | ⟨-, h⟩ <;> rw [h] <;> exact ⟨rfl, rfl⟩

/-- What a handler of FIW writes of the state machine (`45_state_machine.md` R243 to R245). -/
theorem handleFiw_registers (d : SymbolBits) (s : State) :
    (handleFiw d s).frame =
      { s.frame with
        fiwCount := s.frame.fiwCount + 1#6
        fiwRaw := (handleFiw d s).frame.fiwRaw
        cycleNo := (handleFiw d s).frame.cycleNo
        frameNo := (handleFiw d s).frame.frameNo
        sync2Count := (handleFiw d s).frame.sync2Count
        state := (handleFiw d s).frame.state } := by
  by_cases h48 : (shiftFiw d s).frame.fiwCount.toNat = 48
  · rw [handleFiw_full h48]
    rcases checkFiw_cases (shiftFiw d s) with ⟨-, h⟩ | ⟨w, n, -, -, h⟩ | ⟨w, n, -, -, h⟩ <;>
      rw [h] <;> rfl
  · rw [handleFiw_below h48]
    rfl

/-- What a handler of SYNC2 writes of the state machine, and the cleared memory
(`45_state_machine.md` R246). -/
theorem handleSync2_registers (s : State) :
    (handleSync2 s).frame =
        { s.frame with
          sync2Count := s.frame.sync2Count + 1#7
          dataCount := (handleSync2 s).frame.dataCount
          state := (handleSync2 s).frame.state } ∧
      ((s.frame.sync2Count + 1#7).toNat = sync2Bound s →
        ∀ (p : Phase) (k : BitVec 7), pbRead p k (handleSync2 s) = 0) := by
  by_cases h : (s.frame.sync2Count + 1#7).toNat = sync2Symbols s.sync.baud
  · rw [handleSync2_at_bound h]
    exact ⟨rfl, fun _ p k => rfl⟩
  · rw [handleSync2_off_bound h]
    exact ⟨rfl, fun hbound => absurd (sync2Symbols_eq_sync2Bound s ▸ hbound) h⟩

/-- What a handler of DATA writes of the state machine (`45_state_machine.md` R247, R248). -/
theorem countData_registers {s u : State} (h : SameButColl s u) :
    (countData u).frame =
      { s.frame with
        dataCount := s.frame.dataCount + 1#13, state := (countData u).frame.state } := by
  rcases countData_cases u with ⟨he, -⟩ | ⟨he, -⟩ <;> rw [he]
  · rw [countDataSymbol, h.frame]
  · simp [endFrame, countDataSymbol, h.frame]

/-! ### The bits of each row -/

theorem handleSync1_congr {d d' : SymbolBits} (h : d.syncBit = d'.syncBit) (s : State) :
    handleSync1 d s = handleSync1 d' s := by
  unfold handleSync1
  rw [h]

theorem handleFiw_congr {d d' : SymbolBits} (h : d.bitA = d'.bitA) (s : State) :
    handleFiw d s = handleFiw d' s := by
  have hshift : shiftFiw d s = shiftFiw d' s := by
    unfold shiftFiw
    rw [h]
  unfold handleFiw
  rw [hshift]

theorem handleData_congr {d d' : SymbolBits} (ha : d.bitA = d'.bitA) (hb : d.bitB = d'.bitB)
    (s : State) : handleData d s = handleData d' s := by
  have hwrite : ∀ u, writeBits d u = writeBits d' u := by
    intro u
    unfold writeBits
    rw [ha, hb]
  unfold handleData collect collectSteps
  rw [hwrite]

/-- A handler reads only the bits that the statement compares. -/
theorem handlerOf_of_input {st : FrameState} {q : Symbol} {s : State} (h : InputIsSymbol st q s) :
    handlerOf st s.symbolIn (beginResponse s) =
      handlerOf st (decodeSymbol s.sync.polarity q) (beginResponse s) := by
  have hbits : (decodeSymbol s.sync.polarity q).bitA = decide (1 < (rectified s q).toNat) ∧
      (decodeSymbol s.sync.polarity q).bitB =
        decide (rectified s q = 1 ∨ rectified s q = 2) := by
    rw [← rectify_eq_rectified]
    exact ⟨rfl, rfl⟩
  obtain ⟨hbitA, hbitB⟩ := hbits
  cases st with
  | sync1 =>
    have hs : s.symbolIn.syncBit = (decodeSymbol s.sync.polarity q).syncBit := h
    exact congrArg Except.ok (handleSync1_congr hs _)
  | fiw =>
    exact congrArg Except.ok (handleFiw_congr (h.trans hbitA.symm) _)
  | sync2 => rfl
  | data =>
    obtain ⟨ha, hb⟩ := h
    exact handleData_congr (ha.trans hbitA.symm) (hb.trans hbitB.symm) _

/-- A row against SYM at the state of the row's code. -/
theorem stateRow_against_sym {st : FrameState} {q : Symbol} {s t : State}
    (h : InputIsSymbol st q s) (ht : handlerOf st s.symbolIn (beginResponse s) = .ok t) :
    ∃ u, exec (.sym q) { s with configured := true, frame := { s.frame with state := st } } =
        .next u ∧
      t.demod = u.demod ∧ t.sync = u.sync ∧ t.coll = u.coll ∧
      t.frame =
        { u.frame with
          state := if u.frame.state = st then s.frame.state else u.frame.state } ∧
      SameConfiguration s t ∧
      t.response = { okResponse 0 with events := u.response.events } := by
  rw [handlerOf_of_input h] at ht
  obtain ⟨w, -, he, hrun⟩ := handlerOf_writes ht
  have hsym := hrun (beginResponse
    { s with configured := true, frame := { s.frame with state := st } })
  have hexec := exec_sym_of_state (s :=
    { s with configured := true, frame := { s.frame with state := st } }) rfl rfl hsym
  refine ⟨_, hexec, ?_, ?_, ?_, ?_, ?_, ?_⟩ <;> rw [he]
  · rfl
  · rfl
  · rfl
  · by_cases hnext : w.next = st
    · simp [symAnswer, hnext]
    · simp [symAnswer, hnext]
  · exact ⟨rfl, rfl⟩
  · rfl

/-- No handler writes the demodulator but for its baud, or the configuration. -/
theorem handlerOf_demod {st : FrameState} {d : SymbolBits} {s t : State}
    (h : handlerOf st d s = .ok t) :
    t.demod = { s.demod with baud := t.demod.baud } ∧ SameConfiguration s t := by
  obtain ⟨w, -, rfl, -⟩ := handlerOf_writes h
  exact ⟨rfl, rfl, rfl⟩

/-- A handler whose word exists completes. -/
theorem handlerOf_answers (st : FrameState) (d : SymbolBits) {s : State}
    (h : st = .data → s.coll.dataBitCounter.toNat ≤ 2815) : ∃ t, handlerOf st d s = .ok t := by
  cases st with
  | sync1 => exact ⟨_, rfl⟩
  | fiw => exact ⟨_, rfl⟩
  | sync2 => exact ⟨_, rfl⟩
  | data => exact ⟨_, handleData_eq_ok.2 ⟨wordExists_of_le (h rfl), rfl⟩⟩

/-- Settles O56: a row completes with its own registers, and as SYM does on its bits. -/
theorem stateRowsRunTheirHandler : Obligations.StateRowsRunTheirHandler := by
  intro s
  refine ⟨?_, ?_, ?_, ?_, ?_⟩
  · obtain ⟨hbuf, hframe⟩ := handleSync1_registers s.symbolIn (beginResponse s)
    obtain ⟨hdemod, hcoll, hconf⟩ := handleSync1_frame s.symbolIn (beginResponse s)
    exact ⟨_, exec_stateRow_of_ok (st := .sync1) rfl, hbuf, hframe, hdemod, hcoll, hconf⟩
  · have hrun : handlerOf .fiw s.symbolIn (beginResponse s) =
        .ok (handleFiw s.symbolIn (beginResponse s)) := rfl
    obtain ⟨hdemod, hconf⟩ := handlerOf_demod hrun
    obtain ⟨hcoll, hsync⟩ := handleFiw_same s.symbolIn (beginResponse s)
    exact ⟨_, exec_stateRow_of_ok hrun, handleFiw_registers _ _, hdemod, hsync, hcoll, hconf⟩
  · have hrun : handlerOf .sync2 s.symbolIn (beginResponse s) =
        .ok (handleSync2 (beginResponse s)) := rfl
    obtain ⟨-, -, -, hcoll⟩ := handlerOf_kept hrun
    obtain ⟨hframe, hclear⟩ := handleSync2_registers (beginResponse s)
    obtain ⟨hdemod, hsync⟩ := handleSync2_kept (beginResponse s)
    obtain ⟨-, hconf⟩ := handlerOf_demod hrun
    exact ⟨_, exec_stateRow_of_ok hrun, hframe, hcoll rfl, hclear, hdemod, hsync, hconf⟩
  · intro hcount
    have hrun : handlerOf .data s.symbolIn (beginResponse s) =
        .ok (countData (collectSteps s.symbolIn (beginResponse s))) :=
      handleData_eq_ok.2 ⟨wordExists_of_le hcount, rfl⟩
    obtain ⟨same, -⟩ := collectSteps_effect s.symbolIn (beginResponse s)
    have hframe := countData_registers same
    obtain ⟨hdemod, hconf⟩ := handlerOf_demod hrun
    obtain ⟨-, hsync, -⟩ := handlerOf_kept hrun
    exact ⟨_, exec_stateRow_of_ok hrun, hframe, fun hm p k hk =>
      handlerOf_data_words (s := beginResponse s) hrun hm hk, hdemod, hsync (by decide), hconf⟩
  · intro st q hin hdata
    obtain ⟨t, ht⟩ := handlerOf_answers st s.symbolIn (s := beginResponse s) hdata
    obtain ⟨u, hu⟩ := stateRow_against_sym hin ht
    exact ⟨t, u, exec_stateRow_of_ok ht, hu⟩

end Sys2Proof.Proofs.Rows
end

section
/-! PROOFS. Nothing reads the diagnostics `sample_count`, `symbol_count` and `symbol_rate`
(`10_state.md` R24): every operation goes from states that differ only in them to such states. -/

namespace Sys2Proof.Proofs.Diagnostics

open Sys2Proof.Machine Sys2Proof.Safety Sys2Proof.Proofs.SymSync1 Sys2Proof.Proofs.HostCommands
  Sys2Proof.Proofs.Commands Sys2Proof.Proofs.Inversion Sys2Proof.Proofs.Sample
  Sys2Proof.Proofs.SampleStatements Sys2Proof.Proofs.Symbol

/-- The state with other diagnostics. -/
def withDiagnostics (samples symbols : Nat) (rate : Rat) (s : State) : State :=
  { s with
    demod :=
      { s.demod with sampleCount := samples, symbolCount := symbols, symbolRate := rate } }

theorem sameButDiagnostics_iff {s s' : State} :
    SameButDiagnostics s s' ↔ ∃ a b r, s' = withDiagnostics a b r s :=
  ⟨fun h => ⟨_, _, _, h⟩, fun ⟨_, _, _, h⟩ => h ▸ rfl⟩

section
variable (v : Word) (a b : Nat) (r : Rat) (s : State)

theorem symbolEnds_withDiagnostics :
    symbolEnds v (withDiagnostics a b r s) = symbolEnds v s := rfl

theorem sampled_withDiagnostics :
    sampled v (withDiagnostics a b r s) = withDiagnostics (a + 1) b r (sampled v s) := by
  rfl

theorem decided_withDiagnostics :
    SameButDiagnostics (decided v s) (decided v (withDiagnostics a b r s)) := by
  have hdecide : ∀ u : State, SameButDiagnostics (estimateRate Config.rnd (decideSymbol u))
      (estimateRate Config.rnd (decideSymbol (withDiagnostics (a + 1) b r u))) := fun u => rfl
  rw [decided, decided, sampled_withDiagnostics]
  exact hdecide (sampled v s)

theorem countTimeout_withDiagnostics :
    countTimeout (withDiagnostics a b r s) = withDiagnostics a b r (countTimeout s) := by
  rw [countTimeout_eq, countTimeout_eq]
  rfl

theorem detectLock_withDiagnostics :
    SameButDiagnostics (detectLock s) (detectLock (withDiagnostics a b r s)) := by
  rcases detectLock_cases s with ⟨hp, h⟩ | ⟨hp, h⟩ <;>
    rcases detectLock_cases (withDiagnostics a b r s) with ⟨hp', h'⟩ | ⟨hp', h'⟩
  · rw [h, h']
    rfl
  · exact absurd (hp.symm.trans hp') (by decide)
  · exact absurd (hp.symm.trans hp') (by decide)
  · rw [h, h']
    rfl

end

/-! ### The handlers -/

theorem handlerOf_sameButDiagnostics {st : FrameState} {d : SymbolBits} {s s' t : State}
    (hs : SameButDiagnostics s s') (h : handlerOf st d s = .ok t) :
    ∃ t', handlerOf st d s' = .ok t' ∧ SameButDiagnostics t t' := by
  obtain ⟨a, b, r, rfl⟩ := sameButDiagnostics_iff.1 hs
  obtain ⟨w, -, rfl, hrun⟩ := handlerOf_writes h
  exact ⟨_, hrun (withDiagnostics a b r s), rfl⟩

theorem symbolHandler_sameButDiagnostics {q : Symbol} {s s' t : State}
    (hs : SameButDiagnostics s s') (h : symbolHandler q s = .ok t) :
    ∃ t', symbolHandler q s' = .ok t' ∧ SameButDiagnostics t t' := by
  obtain ⟨t', ht', hsame⟩ := handlerOf_sameButDiagnostics hs h
  have hselect : symbolHandler q s' =
      handlerOf s.frame.state (decodeSymbol s.sync.polarity q) s' := by
    obtain ⟨a, b, r, rfl⟩ := sameButDiagnostics_iff.1 hs
    rfl
  exact ⟨t', hselect.trans ht', hsame⟩

theorem countTimeout_sameButDiagnostics {s s' : State} (h : SameButDiagnostics s s') :
    SameButDiagnostics (countTimeout s) (countTimeout s') := by
  obtain ⟨a, b, r, rfl⟩ := sameButDiagnostics_iff.1 h
  rw [countTimeout_withDiagnostics]
  rfl

theorem detectLock_sameButDiagnostics {s s' : State} (h : SameButDiagnostics s s') :
    SameButDiagnostics (detectLock s) (detectLock s') := by
  obtain ⟨a, b, r, rfl⟩ := sameButDiagnostics_iff.1 h
  exact detectLock_withDiagnostics a b r s

/-! ### One sample -/

theorem demodulated_sameButDiagnostics {v : Word} {s s' t : State} {c : Bool}
    (hs : SameButDiagnostics s s') (h : Demodulated v s t c) :
    ∃ t', Demodulated v s' t' c ∧ SameButDiagnostics t t' := by
  obtain ⟨a, b, r, rfl⟩ := sameButDiagnostics_iff.1 hs
  have hsampled := sampled_withDiagnostics v a b r s
  have hdecided := decided_withDiagnostics v a b r s
  have hlocked : (sampled v (withDiagnostics a b r s)).demod.locked =
      (sampled v s).demod.locked := by
    rw [hsampled]
    rfl
  have hends := symbolEnds_withDiagnostics v a b r s
  cases h with
  | between hend =>
    refine ⟨_, .between (hends.trans hend), ?_⟩
    rw [hsampled]
    rfl
  | forwards hend hlock hu =>
    obtain ⟨u', hu', hsame⟩ := symbolHandler_sameButDiagnostics hdecided hu
    exact ⟨_, .forwards (hends.trans hend) (hlocked.trans hlock) hu',
      countTimeout_sameButDiagnostics hsame⟩
  | detects hend hlock =>
    exact ⟨_, .detects (hends.trans hend) (hlocked.trans hlock),
      countTimeout_sameButDiagnostics (detectLock_sameButDiagnostics hdecided)⟩

/-- The three outcomes are what `demodulate` answers. -/
theorem demodulate_of_demodulated {v : Word} {s t : State} {c : Bool} (h : Demodulated v s t c) :
    demodulate Config.rnd (sampleValue v) s = .ok (t, c) := by
  have hcomplete : ∀ {u : State}, symbolEnds v s = true → routeSymbol (decided v s) = .ok u →
      demodulate Config.rnd (sampleValue v) s = .ok (countTimeout u, true) := by
    intro u hend hu
    have hdone : completeSymbol Config.rnd (advancePhase (sampleTiming s) (stepped v s)) =
        .ok (countTimeout u) := completeSymbol_eq_ok.2 ⟨u, hu, rfl⟩
    unfold demodulate
    simp only [sampleSteps_eq, periodCompletes_eq_symbolEnds, hend, hdone, if_true]
  cases h with
  | between hend =>
    unfold demodulate
    simp only [sampleSteps_eq, periodCompletes_eq_symbolEnds, hend]
    rfl
  | forwards hend hlock hu => exact hcomplete hend ((if_pos hlock).trans hu)
  | detects hend hlock => exact hcomplete hend (if_neg (ne_true_of_eq_false hlock))

theorem demodulate_sameButDiagnostics {v : Word} {s s' t : State} {c : Bool}
    (hs : SameButDiagnostics s s')
    (h : demodulate Config.rnd (sampleValue v) s = .ok (t, c)) :
    ∃ t', demodulate Config.rnd (sampleValue v) s' = .ok (t', c) ∧ SameButDiagnostics t t' := by
  obtain ⟨t', ht', hsame⟩ := demodulated_sameButDiagnostics hs (demodulate_demodulated h)
  exact ⟨t', demodulate_of_demodulated ht', hsame⟩

/-! ### The commands -/

theorem beginResponse_sameButDiagnostics {s s' : State} (h : SameButDiagnostics s s') :
    SameButDiagnostics (beginResponse s) (beginResponse s') := by
  obtain ⟨a, b, r, rfl⟩ := sameButDiagnostics_iff.1 h
  rfl

theorem configured_of_same {s s' : State} (h : SameButDiagnostics s s') :
    s'.configured = s.configured := by
  rw [h]

theorem exec_smp_sameButDiagnostics {v : Word} {s s' t : State} (hs : SameButDiagnostics s s')
    (h : exec (.smp v) s = .next t) :
    ∃ t', exec (.smp v) s' = .next t' ∧ SameButDiagnostics t t' := by
  have hconf := configured_of_same hs
  have hfails : ∀ e, refuse e s = .next t →
      ∃ t', refuse e s' = .next t' ∧ SameButDiagnostics t t' := by
    intro e he
    obtain ⟨a, b, r, rfl⟩ := sameButDiagnostics_iff.1 hs
    rw [← Host.Outcome.next.inj he]
    exact ⟨_, rfl, rfl⟩
  by_cases hc : s.configured = true
  · by_cases hv : sampleIsFinite v = true
    · cases hd : demodulate Config.rnd (sampleValue v) (beginResponse s) with
      | ok r =>
        obtain ⟨u, c⟩ := r
        obtain ⟨u', hu', hsame⟩ :=
          demodulate_sameButDiagnostics (beginResponse_sameButDiagnostics hs) hd
        rw [exec_smp_of_ok hc hv hd] at h
        refine ⟨_, exec_smp_of_ok (hconf.trans hc) hv hu', ?_⟩
        rw [← Host.Outcome.next.inj h]
        obtain ⟨a, b, r, rfl⟩ := sameButDiagnostics_iff.1 hsame
        rfl
      | error e =>
        rw [exec_smp_of_error hc hv hd] at h
        cases h
    · have hinf := sampleIsFinite_eq_false.1 (by simpa using hv)
      rw [exec_smp_notFinite hc hinf] at h
      rw [exec_smp_notFinite (hconf.trans hc) hinf]
      exact hfails _ h
  · have hc' : s.configured = false := by simpa using hc
    rw [exec_smp_unconfigured hc'] at h
    rw [exec_smp_unconfigured (hconf.trans hc')]
    exact hfails _ h

theorem exec_sym_sameButDiagnostics {q : Symbol} {s s' t : State} (hs : SameButDiagnostics s s')
    (h : exec (.sym q) s = .next t) :
    ∃ t', exec (.sym q) s' = .next t' ∧ SameButDiagnostics t t' := by
  have hconf := configured_of_same hs
  by_cases hc : s.configured = true
  · rw [exec_sym_of_configured hc] at h
    obtain ⟨u, hu, rfl⟩ := complete_eq_next.1 h
    obtain ⟨u', hu', hsame⟩ :=
      symbolHandler_sameButDiagnostics (beginResponse_sameButDiagnostics hs) hu
    refine ⟨_, exec_sym_of_ok (hconf.trans hc) hu', ?_⟩
    obtain ⟨a, b, r, rfl⟩ := sameButDiagnostics_iff.1 hsame
    rfl
  · have hc' : s.configured = false := by simpa using hc
    rw [exec_sym_unconfigured hc'] at h
    obtain ⟨a, b, r, rfl⟩ := sameButDiagnostics_iff.1 hs
    rw [← Host.Outcome.next.inj h]
    exact ⟨_, exec_sym_unconfigured hc', rfl⟩

theorem runHandler_sameButDiagnostics {st : FrameState} {s s' t : State}
    (hs : SameButDiagnostics s s') (h : runHandler st s = .next t) :
    ∃ t', runHandler st s' = .next t' ∧ SameButDiagnostics t t' := by
  obtain ⟨u, hu, rfl⟩ := complete_eq_next.1 h
  obtain ⟨u', hu', hsame⟩ := handlerOf_sameButDiagnostics (beginResponse_sameButDiagnostics hs) hu
  have hlatch : s'.symbolIn = s.symbolIn := by rw [hs]
  refine ⟨u', ?_, hsame⟩
  unfold runHandler
  rw [hlatch, hu']
  rfl

/-- The state with a symbol's bits latched. -/
def latched (q : Symbol) (s : State) : State :=
  { beginResponse s with symbolIn := decodeSymbol s.sync.polarity q }

/-- Settles O36. -/
theorem diagnosticsAreNotRead : Obligations.DiagnosticsAreNotRead := by
  intro i s s' t hi hs h
  have hkeep : ∀ f : State → State, exec i s = .next (f s) → exec i s' = .next (f s') →
      (∀ a b r, SameButDiagnostics (f s) (f (withDiagnostics a b r s))) →
      ∃ t', exec i s' = .next t' ∧ SameButDiagnostics t t' := by
    intro f hf hf' hsame
    obtain ⟨a, b, r, rfl⟩ := sameButDiagnostics_iff.1 hs
    rw [Host.Outcome.next.inj (h.symm.trans hf)]
    exact ⟨_, hf', hsame a b r⟩
  cases i with
  | cfg f =>
    by_cases hf : f = 0#32
    · exact hkeep (errorResponse .invalidConfiguration 0#32)
        ((exec_cfg f s).trans (if_pos hf)) ((exec_cfg f s').trans (if_pos hf)) fun _ _ _ => rfl
    · exact hkeep (configure f) ((exec_cfg f s).trans (if_neg hf))
        ((exec_cfg f s').trans (if_neg hf)) fun _ _ _ => rfl
  | rst => exact hkeep (fun s => beginResponse (resetRegisters s)) rfl rfl fun _ _ _ => rfl
  | smp v => exact exec_smp_sameButDiagnostics hs h
  | sym q => exact exec_sym_sameButDiagnostics hs h
  | bchfix w =>
    cases hw : fixErrors w with
    | some r =>
      exact hkeep _ (exec_bchfix_some (c := r.1) (n := r.2) s hw)
        (exec_bchfix_some (c := r.1) (n := r.2) s' hw) fun _ _ _ => rfl
    | none => exact hkeep _ (exec_bchfix_none s hw) (exec_bchfix_none s' hw) fun _ _ _ => rfl
  | bchenc d => exact hkeep (answer (bchEncode d) 0) rfl rfl fun _ _ _ => rfl
  | rdpb p k =>
    by_cases hk : pbIndexExists k = true
    · exact hkeep (fun s => answer (pbRead p k s) 0 s) ((exec_rdpb p k s).trans (if_pos hk))
        ((exec_rdpb p k s').trans (if_pos hk)) fun _ _ _ => rfl
    · exact hkeep (errorResponse .badAddress 0#32) ((exec_rdpb p k s).trans (if_neg hk))
        ((exec_rdpb p k s').trans (if_neg hk)) fun _ _ _ => rfl
  | rdcsr n => exact absurd rfl (hi n)
  | illegal0 | illegal9 | illegalA | illegalB | illegalC | illegalD | illegalE | illegalF =>
    exact hkeep (errorResponse .illegalCommand 0#32) rfl rfl fun _ _ _ => rfl
  | syncCode870C c =>
    exact hkeep (fun s => recordMode c .b1600 .two (beginResponse s)) rfl rfl fun _ _ _ => rfl
  | syncCodeB068 c =>
    exact hkeep (fun s => recordMode c .b1600 .four (beginResponse s)) rfl rfl fun _ _ _ => rfl
  | syncCode7B18 c =>
    exact hkeep (fun s => recordMode c .b3200 .two (beginResponse s)) rfl rfl fun _ _ _ => rfl
  | syncCodeDEA0 c =>
    exact hkeep (fun s => recordMode c .b3200 .four (beginResponse s)) rfl rfl fun _ _ _ => rfl
  | syncCode4C7C c =>
    exact hkeep (fun s => recordMode c .b3200 .four (beginResponse s)) rfl rfl fun _ _ _ => rfl
  | syncCodeUnknown c =>
    exact hkeep (fun s => recordMode c .b1600 .two (beginResponse s)) rfl rfl fun _ _ _ => rfl
  | symbol0 => exact hkeep (latched 0#2) rfl rfl fun _ _ _ => rfl
  | symbol1 => exact hkeep (latched 1#2) rfl rfl fun _ _ _ => rfl
  | symbol2 => exact hkeep (latched 2#2) rfl rfl fun _ _ _ => rfl
  | symbol3 => exact hkeep (latched 3#2) rfl rfl fun _ _ _ => rfl
  | stateSync1 => exact runHandler_sameButDiagnostics (st := .sync1) hs h
  | stateFiw => exact runHandler_sameButDiagnostics (st := .fiw) hs h
  | stateSync2 => exact runHandler_sameButDiagnostics (st := .sync2) hs h
  | stateData => exact runHandler_sameButDiagnostics (st := .data) hs h

end Sys2Proof.Proofs.Diagnostics
end

section
/-! PROOFS. The invariant of a block that only commands have driven (`10_state.md` R47, R49, R53):
it holds after power-on, and every step answers a next state that meets it. -/

namespace Sys2Proof.Proofs.Invariant

open Sys2Proof.Machine Sys2Proof.Safety Sys2Proof.Proofs.SymSync1 Sys2Proof.Proofs.HostCommands
  Sys2Proof.Proofs.Encoding Sys2Proof.Proofs.Commands Sys2Proof.Proofs.Inversion
  Sys2Proof.Proofs.Sample Sys2Proof.Proofs.SampleStatements Sys2Proof.Proofs.EveryInstruction
  Sys2Proof.Proofs.CollectorStep Sys2Proof.Proofs.Symbol Sys2Proof.Proofs.Rows

/-! ### The part of the invariant that a symbol handler keeps -/

/-- The clauses about the synchronizer, the state machine and the collector (`10_state.md` R35, R53
(c) to (e)). -/
structure FrameWell (s : State) : Prop where
  fiw : FiwInProgress s
  sync2 : Sync2InProgress s
  data : DataInProgress s
  bauds : BaudsAgree s
  mode : ModeFollowsCode s
  counters : CountersLegal s
  idle : IdleCountsBounded s

theorem frameWell_congr {s t : State} (h : FrameWell s) (hsync : t.sync = s.sync)
    (hframe : t.frame = s.frame) (hcoll : t.coll = s.coll)
    (hbaud : t.demod.baud = s.demod.baud) : FrameWell t := by
  obtain ⟨h1, h2, h3, h4, h5, h6, h7⟩ := h
  constructor
  · simpa only [FiwInProgress, hframe] using h1
  · simpa only [Sync2InProgress, hframe, hsync] using h2
  · simpa only [DataInProgress, symbolsCollected, hframe, hsync, hcoll] using h3
  · simpa only [BaudsAgree, hframe, hsync, hbaud] using h4
  · simpa only [ModeFollowsCode, hsync] using h5
  · simpa only [CountersLegal, hframe, hcoll] using h6
  · simpa only [IdleCountsBounded, hframe, hcoll] using h7

/-- The legal values of an idle counter outside DATA (`10_state.md` R42, R47). -/
def IdleCountsLegal (s : State) : Prop :=
  ∀ p : Phase, (fourGet s.coll.idleCount (phaseBits p)).toNat ≤ 11

/-- Outside SYNC2 and DATA the invariant asks for the mode, the legal values and, in FIW, for the
count of a FIW in progress. -/
theorem frameWell_of_early {s : State} (hst : s.frame.state = .sync1 ∨ s.frame.state = .fiw)
    (hfiw : FiwInProgress s) (hmode : ModeFollowsCode s) (hcounters : CountersLegal s)
    (hidle : IdleCountsLegal s) : FrameWell s := by
  have hnot2 : s.frame.state ≠ .sync2 := by rcases hst with h | h <;> simp [h]
  have hnotd : s.frame.state ≠ .data := by rcases hst with h | h <;> simp [h]
  exact ⟨hfiw, fun h => absurd h hnot2, fun h => absurd h hnotd,
    fun h => absurd h (not_or.2 ⟨hnot2, hnotd⟩), hmode, hcounters, hidle, fun h => absurd h hnotd⟩

theorem frameWell_of_sync1 {s : State} (hst : s.frame.state = .sync1) (hmode : ModeFollowsCode s)
    (hcounters : CountersLegal s) (hidle : IdleCountsLegal s) : FrameWell s := by
  refine frameWell_of_early (Or.inl hst) (fun h => ?_) hmode hcounters hidle
  simp [hst] at h

theorem frameWell_of_fiw {s : State} (hst : s.frame.state = .fiw)
    (hcount : s.frame.fiwCount.toNat ≤ 47) (hmode : ModeFollowsCode s)
    (hcounters : CountersLegal s) (hidle : IdleCountsLegal s) : FrameWell s :=
  frameWell_of_early (Or.inr hst) (fun _ => hcount) hmode hcounters hidle

theorem frameWell_of_sync2 {s : State} (hst : s.frame.state = .sync2)
    (hcount : s.frame.sync2Count.toNat < sync2Symbols s.sync.baud)
    (hbaud : s.demod.baud = s.sync.baud) (hmode : ModeFollowsCode s)
    (hcounters : CountersLegal s) (hidle : IdleCountsLegal s) : FrameWell s := by
  have hnotf : s.frame.state ≠ .fiw := by simp [hst]
  have hnotd : s.frame.state ≠ .data := by simp [hst]
  exact ⟨fun h => absurd h hnotf, fun _ => hcount, fun h => absurd h hnotd, fun _ => hbaud, hmode,
    hcounters, hidle, fun h => absurd h hnotd⟩

theorem frameWell_of_data {s : State} (hst : s.frame.state = .data) (hdata : DataInProgress s)
    (hbaud : s.demod.baud = s.sync.baud) (hmode : ModeFollowsCode s)
    (hcounters : CountersLegal s) (hidle : IdleCountsBounded s) : FrameWell s := by
  have hnotf : s.frame.state ≠ .fiw := by simp [hst]
  have hnot2 : s.frame.state ≠ .sync2 := by simp [hst]
  exact ⟨fun h => absurd h hnotf, fun h => absurd h hnot2, hdata, fun _ => hbaud, hmode, hcounters,
    hidle⟩

/-! ### SYNC1 -/

theorem modeFollowsCode_recordMatch (pol : Polarity) (b : BitVec 64) (s : State) :
    ModeFollowsCode (recordMatch pol b s) := by
  have hcode : ((codeHigh b).setWidth 32).setWidth 16 = codeHigh b :=
    BitVec.setWidth_setWidth_of_le _ (by decide)
  constructor
  · change ((codeHigh b).setWidth 32).toNat < 2 ^ 16
    rw [BitVec.toNat_setWidth_of_le (by decide)]
    exact (codeHigh b).isLt
  · change _ = modeOfCode (((codeHigh b).setWidth 32).setWidth 16)
    rw [hcode]
    rfl

theorem handleSync1_frameWell {d : SymbolBits} {s : State} (h : FrameWell s)
    (hst : s.frame.state = .sync1) : FrameWell (handleSync1 d s) := by
  obtain ⟨-, -, -, -, hmode, hcounters, hidle, -⟩ := h
  rcases handleSync1_cases d s with ⟨pol, b, -, he⟩ | ⟨-, he⟩ <;> rw [he]
  · obtain ⟨-, h2, h3, h4⟩ := hcounters
    have hrecord := modeFollowsCode_recordMatch pol b (shiftSyncBuf d.syncBit s)
    exact frameWell_of_fiw rfl (Nat.zero_le _) hrecord ⟨Nat.zero_le _, h2, h3, h4⟩ hidle
  · exact frameWell_of_sync1 hst hmode hcounters hidle

/-! ### FIW -/

theorem handleFiw_frameWell {d : SymbolBits} {s : State} (h : FrameWell s)
    (hst : s.frame.state = .fiw) : FrameWell (handleFiw d s) := by
  obtain ⟨hfiw, -, -, -, hmode, ⟨-, h2, h3, h4⟩, hidle, -⟩ := h
  have hle := hfiw hst
  have hcount : (shiftFiw d s).frame.fiwCount.toNat = s.frame.fiwCount.toNat + 1 :=
    toNat_succ (by omega)
  have hlegal : (shiftFiw d s).frame.fiwCount.toNat ≤ 48 := by omega
  by_cases h48 : (shiftFiw d s).frame.fiwCount.toNat = 48
  · rw [handleFiw_full h48]
    rcases checkFiw_cases (shiftFiw d s) with ⟨-, he⟩ | ⟨w, n, -, -, he⟩ | ⟨w, n, -, -, he⟩ <;>
      rw [he]
    · exact frameWell_of_sync1 rfl hmode ⟨hlegal, h2, h3, h4⟩ hidle
    · exact frameWell_of_sync1 rfl hmode ⟨hlegal, h2, h3, h4⟩ hidle
    · refine frameWell_of_sync2 rfl ?_ rfl hmode ⟨hlegal, Nat.zero_le _, h3, h4⟩ hidle
      change 0 < sync2Symbols s.sync.baud
      cases s.sync.baud <;> decide
  · rw [handleFiw_below h48]
    exact frameWell_of_fiw hst (by omega) hmode ⟨hlegal, h2, h3, h4⟩ hidle

/-! ### SYNC2 -/

/-- A collector just cleared (`44_collector.md` R228). -/
theorem fourGet_reset (p : Phase) :
    (fourGet Collector.reset.idleCount (phaseBits p)).toNat = 0 := by
  cases p <;> rfl

theorem idleCountsBounded_of_reset {s : State} (h : s.coll = Collector.reset) :
    IdleCountsBounded s := by
  have hzero : ∀ (p : Phase) (n : Nat),
      (fourGet s.coll.idleCount (phaseBits p)).toNat ≤ n := fun p n => by
    rw [h, fourGet_reset]
    exact Nat.zero_le n
  exact ⟨fun p => hzero p _, fun _ => ⟨fun p => hzero p _, hzero .c _, hzero .d _⟩⟩

theorem symbolsCollected_of_reset {s : State} (h : s.coll = Collector.reset) :
    symbolsCollected s = 0 := by
  unfold symbolsCollected
  rw [h]
  cases s.sync.baud <;> rfl

theorem handleSync2_frameWell {s : State} (h : FrameWell s) (hst : s.frame.state = .sync2) :
    FrameWell (handleSync2 s) := by
  obtain ⟨-, hsync2, -, hbauds, hmode, ⟨h1, -, h3, h4⟩, hidle, -⟩ := h
  have hlt : s.frame.sync2Count.toNat < sync2Symbols s.sync.baud := hsync2 hst
  have hbaud := hbauds (Or.inl hst)
  have hbound : sync2Symbols s.sync.baud ≤ 80 := by
    cases s.sync.baud <;> decide
  have hcount : (countSync2 s).frame.sync2Count.toNat = s.frame.sync2Count.toNat + 1 :=
    toNat_succ (by omega)
  have hlegal : (countSync2 s).frame.sync2Count.toNat ≤ 80 := by omega
  by_cases hend : (countSync2 s).frame.sync2Count.toNat = sync2Symbols s.sync.baud
  · rw [handleSync2_at_bound hend]
    have hpositive : 0 < dataSymbols s.sync.baud := by
      cases s.sync.baud <;> decide
    exact frameWell_of_data rfl
      (fun _ => ⟨hpositive, symbolsCollected_of_reset rfl, fun _ => rfl⟩) hbaud hmode
      ⟨h1, hlegal, Nat.zero_le _, Nat.zero_le _⟩ (idleCountsBounded_of_reset rfl)
  · rw [handleSync2_off_bound hend]
    refine frameWell_of_sync2 hst ?_ hbaud hmode ⟨h1, hlegal, h3, h4⟩ hidle
    change (countSync2 s).frame.sync2Count.toNat < sync2Symbols s.sync.baud
    omega

/-! ### DATA -/

/-- A frame in progress has a word for its next symbol (`20_memory.md` R71). -/
theorem dataBitCounter_le {s : State} (h : DataInProgress s) (hst : s.frame.state = .data) :
    s.coll.dataBitCounter.toNat ≤ 2815 := by
  obtain ⟨hlt, hcollected, -⟩ := h hst
  rw [← hcollected] at hlt
  unfold symbolsCollected at hlt
  cases hb : s.sync.baud <;> rw [hb] at hlt
  · have hlt' : s.coll.dataBitCounter.toNat < 2816 := hlt
    omega
  · have hlt' : 2 * s.coll.dataBitCounter.toNat + s.coll.phaseToggle.toNat < 5632 := hlt
    omega

/-- A collector step collects one symbol and leaves the two counts within the frame
(`44_collector.md` R226, R230). -/
theorem collectSteps_counts {d : SymbolBits} {s u : State} (hu : u = collectSteps d s)
    (hle : s.coll.dataBitCounter.toNat ≤ 2815) :
    symbolsCollected u = symbolsCollected s + 1 ∧
      (u.sync.baud = .b1600 → u.coll.phaseToggle = false) ∧
      u.coll.dataBitCounter.toNat + u.coll.phaseToggle.toNat = s.coll.dataBitCounter.toNat + 1 ∧
      s.coll.dataBitCounter.toNat ≤ u.coll.dataBitCounter.toNat ∧
      (s.coll.phaseToggle = true → u.coll.phaseToggle = false) := by
  obtain ⟨same, h1600, h3200, -⟩ := collectSteps_effect d s
  rw [← hu] at same h1600 h3200
  have hsucc : (s.coll.dataBitCounter + 1#12).toNat = s.coll.dataBitCounter.toNat + 1 :=
    toNat_succ (by omega)
  unfold symbolsCollected
  rw [same.sync]
  cases hb : s.sync.baud with
  | b1600 =>
    obtain ⟨htog, hcount⟩ := h1600 hb
    rw [htog, hcount, hsucc]
    simp
  | b3200 =>
    obtain ⟨htog, hcount⟩ := h3200 hb
    rw [htog, hcount]
    cases s.coll.phaseToggle <;> simp [hsucc]
    omega

/-- The idle-check points that a phase has passed in the frame: C and D are written second in a pair
of symbols (`44_collector.md` R223 to R225). -/
def checksPassed (s : State) (p : Phase) : Nat :=
  match p with
  | .a | .b => (s.coll.dataBitCounter.toNat + s.coll.phaseToggle.toNat) / 256
  | .c | .d => s.coll.dataBitCounter.toNat / 256

theorem idleCount_le_checksPassed {s : State} (hidle : IdleCountsBounded s)
    (hst : s.frame.state = .data) (p : Phase) :
    (fourGet s.coll.idleCount (phaseBits p)).toNat ≤ checksPassed s p := by
  obtain ⟨-, hdata⟩ := hidle
  obtain ⟨hall, hc, hd⟩ := hdata hst
  cases p with
  | a => exact hall .a
  | b => exact hall .b
  | c => exact hc
  | d => exact hd

theorem idleCountsBounded_of_checksPassed {s : State}
    (hle : s.coll.dataBitCounter.toNat + s.coll.phaseToggle.toNat ≤ 2816)
    (h : ∀ p : Phase, (fourGet s.coll.idleCount (phaseBits p)).toNat ≤ checksPassed s p) :
    IdleCountsBounded s := by
  have hpassed : ∀ p, checksPassed s p ≤
      (s.coll.dataBitCounter.toNat + s.coll.phaseToggle.toNat) / 256 := by
    intro p
    unfold checksPassed
    split <;> omega
  refine ⟨fun p => ?_, fun _ => ⟨fun p => (h p).trans (hpassed p), h .c, h .d⟩⟩
  have := hpassed p
  have := h p
  omega

/-- A phase is written at its own half of the pair (`44_collector.md` R223, R224). -/
theorem mem_writtenPhases {t : Bool} {l : Levels} {p : Phase} (h : p ∈ writtenPhases t l) :
    t = decide (p = .c ∨ p = .d) := by
  revert h
  cases t <;> cases l <;> cases p <;> decide

theorem collectSteps_idleBounded {d : SymbolBits} {s u : State} (hu : u = collectSteps d s)
    (hst : s.frame.state = .data) (hle : s.coll.dataBitCounter.toNat ≤ 2815)
    (hpin : s.sync.baud = .b1600 → s.coll.phaseToggle = false) (hidle : IdleCountsBounded s) :
    IdleCountsBounded u := by
  obtain ⟨-, -, hsum, hcount, hback⟩ := collectSteps_counts hu hle
  refine idleCountsBounded_of_checksPassed (by omega) fun p => ?_
  have hbefore := idleCount_le_checksPassed hidle hst p
  have hstep := collectSteps_idle d s p
  have htoggle : (pinToggle s).coll.phaseToggle = s.coll.phaseToggle := by
    obtain ⟨-, -, -, -, hp1600, hp3200⟩ := pinToggle_effect s
    cases hb : s.sync.baud with
    | b1600 => rw [hp1600 hb, hpin hb]
    | b3200 => exact hp3200 hb
  rw [← hu, htoggle] at hstep
  have hwritten : p ∈ writtenPhases s.coll.phaseToggle s.sync.levels →
      s.coll.phaseToggle = decide (p = .c ∨ p = .d) := mem_writtenPhases
  have hone : s.coll.phaseToggle.toNat ≤ 1 := Bool.toNat_le _
  have hearly : p ∈ writtenPhases s.coll.phaseToggle s.sync.levels → p = .a ∨ p = .b →
      s.coll.phaseToggle.toNat = 0 := by
    rintro hw (rfl | rfl) <;> simp [hwritten hw]
  have hlate : p ∈ writtenPhases s.coll.phaseToggle s.sync.levels → p = .c ∨ p = .d →
      u.coll.phaseToggle.toNat = 0 := by
    rintro hw (rfl | rfl) <;> simp [hback (hwritten hw)]
  by_cases hw : s.coll.dataBitCounter.toNat % 256 = 255 ∧
      p ∈ writtenPhases s.coll.phaseToggle s.sync.levels
  · rw [if_pos hw] at hstep
    obtain ⟨hpoint, hmem⟩ := hw
    cases p with
    | a | b =>
      have hfirst := hearly hmem (by decide)
      simp only [checksPassed] at hbefore ⊢
      omega
    | c | d =>
      have hsecond := hlate hmem (by decide)
      simp only [checksPassed] at hbefore ⊢
      omega
  · rw [if_neg hw] at hstep
    cases p <;> simp only [checksPassed] at hbefore ⊢ <;> omega

theorem handleData_frameWell {d : SymbolBits} {s : State} (h : FrameWell s)
    (hst : s.frame.state = .data) : FrameWell (countData (collectSteps d s)) := by
  obtain ⟨-, -, hdata, hbauds, hmode, ⟨h1, h2, -, -⟩, hidle⟩ := h
  have hle := dataBitCounter_le hdata hst
  obtain ⟨hlt, hcollected, hpin⟩ := hdata hst
  have hbaud := hbauds (Or.inr hst)
  obtain ⟨same, -⟩ := collectSteps_effect d s
  have hbounded := collectSteps_idleBounded (d := d) rfl hst hle hpin hidle
  obtain ⟨hsymbols, hpinned, hsum, -⟩ := collectSteps_counts (d := d) rfl hle
  generalize collectSteps d s = u at same hbounded hsymbols hpinned hsum
  have hlt' : s.frame.dataCount.toNat < dataSymbols s.sync.baud := hlt
  have hmax : dataSymbols s.sync.baud ≤ 5632 := by
    cases s.sync.baud <;> decide
  have hframe := same.frame
  have hcount : (countDataSymbol u).frame.dataCount.toNat = s.frame.dataCount.toNat + 1 := by
    rw [← hframe]
    exact toNat_succ (by rw [hframe]; omega)
  have hmode' : ModeFollowsCode u := by
    simpa only [ModeFollowsCode, same.sync] using hmode
  have hlegal : CountersLegal (countDataSymbol u) := by
    refine ⟨?_, ?_, by omega, ?_⟩
    · rw [countDataSymbol, hframe]
      exact h1
    · rw [countDataSymbol, hframe]
      exact h2
    · change u.coll.dataBitCounter.toNat ≤ 2816
      omega
  by_cases hend : EndsFrame u
  · rw [countData_of_end hend]
    exact frameWell_of_sync1 rfl hmode' hlegal hbounded.1
  · rw [countData_of_not_end hend]
    have hst' : (countDataSymbol u).frame.state = .data := by
      rw [countDataSymbol, hframe]
      exact hst
    have hnot : (countDataSymbol u).frame.dataCount.toNat ≠ dataSymbols u.sync.baud :=
      fun hfull => hend (Or.inl hfull)
    rw [same.sync] at hnot
    refine frameWell_of_data hst' (fun _ => ⟨?_, ?_, hpinned⟩) ?_ hmode' hlegal ?_
    · change (countDataSymbol u).frame.dataCount.toNat < dataSymbols u.sync.baud
      rw [same.sync]
      omega
    · have hsame : symbolsCollected (countDataSymbol u) = symbolsCollected u := rfl
      rw [hsame, hsymbols, hcollected, hcount]
    · change u.demod.baud = u.sync.baud
      rw [same.demod, same.sync, hbaud]
    · refine ⟨hbounded.1, fun _ => hbounded.2 ?_⟩
      rw [hframe]
      exact hst

/-- The handler of `state` keeps the invariant. -/
theorem handlerOf_frameWell {d : SymbolBits} {s t : State} (h : FrameWell s)
    (ht : handlerOf s.frame.state d s = .ok t) : FrameWell t := by
  rcases handlerOf_cases ht with ⟨hst, rfl⟩ | ⟨hst, rfl⟩ | ⟨hst, rfl⟩ | ⟨hst, -, rfl⟩
  · exact handleSync1_frameWell h hst
  · exact handleFiw_frameWell h hst
  · exact handleSync2_frameWell h hst
  · exact handleData_frameWell h hst

end Sys2Proof.Proofs.Invariant
end

section
/-! PROOFS. The demodulator's part of the invariant (`10_state.md` R30 to R32, R53 (b)), and the
invariant kept by every step. -/

namespace Sys2Proof.Proofs.InvariantSteps

open Sys2Proof.Machine Sys2Proof.Safety Sys2Proof.Proofs.SymSync1 Sys2Proof.Proofs.HostCommands
  Sys2Proof.Proofs.Encoding Sys2Proof.Proofs.Commands Sys2Proof.Proofs.Inversion
  Sys2Proof.Proofs.Sample Sys2Proof.Proofs.SampleStatements Sys2Proof.Proofs.EveryInstruction
  Sys2Proof.Proofs.Symbol Sys2Proof.Proofs.Invariant

/-- The clauses about the configuration and the demodulator. -/
structure DemodWell (s : State) : Prop where
  rate : RateIffConfigured s
  phase : PhaseInPeriod s
  counters : LockCountersBounded s
  buffer : LockBufferIdle s

/-- The same between the sample steps and the timeout, which is at most 100 until it is counted
(`42_demodulator.md` R153, R155, R162). -/
structure BeforeTimeout (s : State) : Prop where
  rate : RateIffConfigured s
  phase : PhaseInPeriod s
  timeout : s.demod.timeout.toNat ≤ 100
  crossings : s.demod.nonconsec.toNat ≤ 20 ∧ (s.demod.locked = true → s.demod.nonconsec.toNat ≤ 19)
  buffer : LockBufferIdle s

theorem beforeTimeout_demodWell {s : State} (h : BeforeTimeout s) : DemodWell s := by
  obtain ⟨hrate, hphase, htime, ⟨hmax, hheld⟩, hbuf⟩ := h
  exact ⟨hrate, hphase, ⟨by omega, hmax, fun hl => ⟨htime, hheld hl⟩⟩, hbuf⟩

/-- Counting the timeout drops lock above 100 (`42_demodulator.md` R162). -/
theorem countTimeout_demodWell {s : State} (h : BeforeTimeout s) : DemodWell (countTimeout s) := by
  obtain ⟨hrate, hphase, htime, ⟨hmax, hheld⟩, hbuf⟩ := h
  rw [countTimeout_eq]
  have hcount : (s.demod.timeout + 1#8).toNat = s.demod.timeout.toNat + 1 :=
    toNat_succ (by omega)
  have hlocked : (timeoutCounted s).demod.locked = true →
      s.demod.locked = true ∧ s.demod.timeout.toNat + 1 ≤ 100 := by
    intro hl
    rw [timeoutCounted_demod] at hl
    simp only [timeoutDrops, hcount, Bool.and_eq_true, Bool.not_eq_true', Bool.and_eq_false_iff,
      decide_eq_false_iff_not] at hl
    obtain ⟨hl, hno⟩ := hl
    refine ⟨hl, ?_⟩
    rcases hno with hno | hno
    · simp [hl] at hno
    · omega
  refine ⟨hrate, hphase, ⟨?_, hmax, fun hl => ?_⟩, fun hl => hbuf (hlocked hl).1⟩
  · change (s.demod.timeout + 1#8).toNat ≤ 101
    omega
  · obtain ⟨hl, hle⟩ := hlocked hl
    refine ⟨?_, hheld hl⟩
    change (s.demod.timeout + 1#8).toNat ≤ 100
    omega

/-! ### The sample steps -/

theorem phaseCorrected_bounds {v : Word} {s : State} (h0 : 0 ≤ s.demod.phase)
    (h1 : s.demod.phase ≤ periodLength s) :
    0 ≤ phaseCorrected v s ∧ phaseCorrected v s ≤ periodLength s := by
  cases hc : signChanges v s with
  | true =>
    rw [← correctedPhase_eq_phaseCorrected hc]
    exact correctedPhase_bounds (sampleTiming s) s.demod.locked h0 h1
  | false =>
    rw [phaseCorrected_of_no_crossing hc]
    exact ⟨h0, h1⟩

/-- A step is at most one period at the rates that a symbol fits in (`10_state.md` R53 (b)). -/
theorem sampled_phaseInPeriod {v : Word} {s : State} (h : PhaseInPeriod s) :
    PhaseInPeriod (sampled v s) := by
  intro hfreq
  have hfreq' : 3200 ≤ s.sampleFreq.toNat := hfreq
  obtain ⟨h0, h1⟩ := h hfreq'
  obtain ⟨hc0, hc1⟩ := phaseCorrected_bounds (v := v) h0 h1
  have hstep : 0 ≤ phaseStep s ∧ phaseStep s ≤ 320000 := by
    unfold phaseStep
    cases s.demod.baud <;> decide
  have hperiod : periodLength s = 100 * (s.sampleFreq.toNat : Int) := rfl
  change 0 ≤ _ ∧ _ ≤ 100 * (s.sampleFreq.toNat : Int)
  rw [sampled_phase]
  by_cases hend : symbolEnds v s = true
  · rw [if_pos hend]
    have hover := of_decide_eq_true hend
    omega
  · rw [if_neg hend]
    have hover := of_decide_eq_false (Bool.eq_false_iff.2 hend)
    omega

/-- The count reaches 20 only where it drops a held lock (`42_demodulator.md` R156). -/
theorem crossingsCounted_bounds {v : Word} {s : State} (h : LockCountersBounded s) :
    (crossingsCounted v s).toNat ≤ 20 ∧
      ((crossingsCounted v s).toNat = 20 → s.demod.locked = true ∧ crossingsDrop v s = true) := by
  obtain ⟨-, -, hheld⟩ := h
  have hbefore : (crossingsBefore s).toNat ≤ 19 ∧
      (s.demod.locked = false → (crossingsBefore s).toNat = 0) := by
    unfold crossingsBefore
    cases hl : s.demod.locked with
    | false => simp
    | true => exact ⟨(hheld hl).2, fun hno => absurd hno (by decide)⟩
  obtain ⟨hle, hfree⟩ := hbefore
  have hsucc : (crossingsBefore s + 1#8).toNat = (crossingsBefore s).toNat + 1 :=
    toNat_succ (by omega)
  by_cases hc : signChanges v s = true
  · by_cases hm : inMiddle s = true
    · have hcount : crossingsCounted v s = crossingsBefore s + 1#8 := by
        rw [crossingsCounted, if_pos hc, if_pos hm]
      rw [hcount, hsucc]
      refine ⟨by omega, fun htwenty => ?_⟩
      have hlock : s.demod.locked = true := by
        by_contra hno
        have := hfree (by simpa using hno)
        omega
      refine ⟨hlock, ?_⟩
      simp [crossingsDrop, hcount, hsucc, hlock, hc, hm, htwenty]
    · rw [crossingsCounted, if_pos hc, if_neg hm]
      simp
  · rw [crossingsCounted, if_neg hc]
    exact ⟨by omega, fun htwenty => by omega⟩

theorem sampled_held {v : Word} {s : State} (h : (sampled v s).demod.locked = true) :
    s.demod.locked = true ∧ crossingsDrop v s = false := by
  have h' : (s.demod.locked && !crossingsDrop v s) = true := h
  simpa using h'

theorem sampled_beforeTimeout {v : Word} {s : State} (h : DemodWell s) :
    BeforeTimeout (sampled v s) := by
  obtain ⟨hrate, hphase, hcount, hbuf⟩ := h
  obtain ⟨hmax, htwenty⟩ := crossingsCounted_bounds (v := v) hcount
  refine ⟨hrate, sampled_phaseInPeriod hphase, ?_, ⟨hmax, fun hl => ?_⟩, fun hl => ?_⟩
  · obtain ⟨-, -, hheld⟩ := hcount
    rw [sampled_timeout, timeoutBefore]
    split
    · exact Nat.zero_le _
    · rename_i hkept
      have hlock : s.demod.locked = true := by
        by_contra hno
        exact hkept (Or.inl (by simpa using hno))
      exact (hheld hlock).1
  · obtain ⟨-, hno⟩ := sampled_held hl
    change (crossingsCounted v s).toNat ≤ 19
    by_contra hover
    obtain ⟨-, hdrop⟩ := htwenty (by omega)
    exact absurd (hdrop.symm.trans hno) (by decide)
  · obtain ⟨hlock, -⟩ := sampled_held hl
    rw [sampled_lockBuffer]
    exact hbuf hlock

/-- While unlocked the sample steps force SYNC1, the state in which the baud is free. -/
theorem sampled_frameWell {v : Word} {s : State} (h : FrameWell s) : FrameWell (sampled v s) := by
  by_cases hl : s.demod.locked = true
  · have hbaud : (sampled v s).demod.baud = s.demod.baud := by
      have hb : (sampled v s).demod.baud =
          if s.demod.locked = true then s.demod.baud else .b1600 := rfl
      rw [hb, if_pos hl]
    have hframe : (sampled v s).frame = s.frame := by rw [sampled_frame, if_pos hl]
    exact frameWell_congr h rfl hframe rfl hbaud
  · have hframe : (sampled v s).frame = { s.frame with state := .sync1 } := by
      rw [sampled_frame, if_neg hl]
    obtain ⟨-, -, -, -, hmode, hcounters, hidle, -⟩ := h
    refine frameWell_of_sync1 (by rw [hframe]) hmode ?_ hidle
    simpa only [CountersLegal, hframe, sampled_coll] using hcounters

/-! ### The symbol-complete sequence -/

theorem beforeTimeout_congr {s t : State} (h : BeforeTimeout s)
    (hconf : t.configured = s.configured) (hfreq : t.sampleFreq = s.sampleFreq)
    (hdemod : t.demod.phase = s.demod.phase ∧ t.demod.timeout = s.demod.timeout ∧
      t.demod.nonconsec = s.demod.nonconsec ∧ t.demod.locked = s.demod.locked ∧
      t.demod.lockBuffer = s.demod.lockBuffer) : BeforeTimeout t := by
  obtain ⟨hphase, htime, hcross, hlock, hbuf⟩ := hdemod
  obtain ⟨h1, h2, h3, h4, h5⟩ := h
  constructor
  · simpa only [RateIffConfigured, hconf, hfreq] using h1
  · simpa only [PhaseInPeriod, hfreq, hphase] using h2
  · simpa only [htime] using h3
  · simpa only [hcross, hlock] using h4
  · simpa only [LockBufferIdle, hlock, hbuf] using h5

theorem decided_beforeTimeout {v : Word} {s : State} (h : DemodWell s) :
    BeforeTimeout (decided v s) := by
  have hdecide : ∀ u : State, BeforeTimeout u →
      BeforeTimeout (estimateRate Config.rnd (decideSymbol u)) := fun u hu =>
    beforeTimeout_congr hu rfl rfl ⟨rfl, rfl, rfl, rfl, rfl⟩
  exact hdecide _ (sampled_beforeTimeout h)

theorem decided_frameWell {v : Word} {s : State} (h : FrameWell s) : FrameWell (decided v s) := by
  have hdecide : ∀ u : State, FrameWell u →
      FrameWell (estimateRate Config.rnd (decideSymbol u)) := fun u hu =>
    frameWell_congr hu rfl rfl rfl rfl
  exact hdecide _ (sampled_frameWell h)

/-- A handler writes nothing of this but the baud. -/
theorem symbolHandler_beforeTimeout {q : Symbol} {s t : State} (h : BeforeTimeout s)
    (ht : symbolHandler q s = .ok t) : BeforeTimeout t := by
  obtain ⟨w, -, he, -⟩ := symbolHandler_writes ht
  refine beforeTimeout_congr h ?_ ?_ ?_
  · rw [he, apply_configured]
  · rw [he, apply_sampleFreq]
  · rw [he, apply_demod]
    exact ⟨rfl, rfl, rfl, rfl, rfl⟩

/-- A lock dropped in this sample is not acquired in it: the buffer held no pair before. -/
theorem lockPattern_of_cleared (pair : BitVec 2) : lockPattern (shiftInPair 0#64 pair) = false := by
  revert pair
  decide

theorem detectLock_beforeTimeout {v : Word} {s : State} (h : DemodWell s)
    (hlock : (sampled v s).demod.locked = false) :
    BeforeTimeout (detectLock (decided v s)) := by
  obtain ⟨hrate, hphase, htime, ⟨hmax, -⟩, -⟩ := decided_beforeTimeout (v := v) h
  obtain ⟨-, -, hcount, hbuf⟩ := h
  have hfree : (shiftLockBuffer (decided v s)).demod.locked = false := hlock
  rcases detectLock_cases (decided v s) with ⟨hp, he⟩ | ⟨-, he⟩ <;> rw [he]
  · refine ⟨hrate, hphase, htime, ⟨hmax, fun _ => ?_⟩, fun _ => rfl⟩
    change (crossingsCounted v s).toNat ≤ 19
    by_contra hover
    obtain ⟨hle, htwenty⟩ := crossingsCounted_bounds (v := v) hcount
    obtain ⟨hheld, -⟩ := htwenty (by omega)
    have hempty : (shiftLockBuffer (decided v s)).demod.lockBuffer =
        shiftInPair 0#64 (symbolLockPair (decided v s).demod.modalSymbol) := by
      rw [← hbuf hheld]
      rfl
    rw [isLockPattern_eq_lockPattern, hempty, lockPattern_of_cleared] at hp
    exact absurd hp (by decide)
  · refine ⟨hrate, hphase, htime, ⟨hmax, fun hl => ?_⟩, fun hl => ?_⟩ <;>
      exact absurd (hl.symm.trans hfree) (by decide)

theorem countTimeout_frameWell {s : State} (h : FrameWell s) : FrameWell (countTimeout s) := by
  rw [countTimeout_eq]
  exact frameWell_congr h rfl rfl rfl rfl

theorem detectLock_frameWell {s : State} (h : FrameWell s) : FrameWell (detectLock s) := by
  rcases detectLock_cases s with ⟨-, he⟩ | ⟨-, he⟩ <;> rw [he] <;>
    exact frameWell_congr h rfl rfl rfl rfl

theorem demodulated_keeps {v : Word} {s t : State} {c : Bool} (hd : DemodWell s)
    (hf : FrameWell s) (h : Demodulated v s t c) : DemodWell t ∧ FrameWell t := by
  cases h with
  | between =>
    exact ⟨beforeTimeout_demodWell (sampled_beforeTimeout hd), sampled_frameWell hf⟩
  | forwards hend hlock hu =>
    exact ⟨countTimeout_demodWell (symbolHandler_beforeTimeout (decided_beforeTimeout hd) hu),
      countTimeout_frameWell (handlerOf_frameWell (decided_frameWell hf) hu)⟩
  | detects hend hlock =>
    exact ⟨countTimeout_demodWell (detectLock_beforeTimeout hd hlock),
      countTimeout_frameWell (detectLock_frameWell (decided_frameWell hf))⟩

/-! ### Every command -/

theorem demodWell_congr {s t : State} (h : DemodWell s) (hconf : t.configured = s.configured)
    (hfreq : t.sampleFreq = s.sampleFreq) {b : Baud}
    (hdemod : t.demod = { s.demod with baud := b }) : DemodWell t := by
  obtain ⟨h1, h2, h3, h4⟩ := h
  constructor
  · simpa only [RateIffConfigured, hconf, hfreq] using h1
  · simpa only [PhaseInPeriod, hfreq, hdemod] using h2
  · simpa only [LockCountersBounded, hdemod] using h3
  · simpa only [LockBufferIdle, hdemod] using h4

/-- The registers after a reset. -/
theorem wellRegisters_of_reset {s : State} (hrate : RateIffConfigured s)
    (hdemod : s.demod = Demod.reset) (hsync : s.sync = Sync.reset) (hframe : s.frame = Frame.reset)
    (hcoll : s.coll = Collector.reset) : DemodWell s ∧ FrameWell s := by
  constructor
  · refine ⟨hrate, fun _ => ?_, ?_, fun _ => ?_⟩
    · rw [hdemod]
      exact ⟨le_refl 0, by simp [Demod.reset]⟩
    · rw [LockCountersBounded, hdemod]
      decide
    · rw [hdemod]
      rfl
  · refine frameWell_of_sync1 ?_ ?_ ?_ (idleCountsBounded_of_reset hcoll).1
    · rw [hframe]
      rfl
    · rw [ModeFollowsCode, hsync]
      decide
    · rw [CountersLegal, hframe, hcoll]
      decide

theorem wellRun_iff (s : State) :
    WellRun s ↔ CommandsOnly s ∧ Memory.wf s.coll.pb = true ∧ DemodWell s ∧ FrameWell s := by
  constructor
  · rintro ⟨h1, h2, h3, h4, h5, h6, h7, h8, h9, h10, h11, h12, h13⟩
    exact ⟨h1, h2, ⟨h3, h4, h10, h11⟩, ⟨h5, h6, h7, h8, h9, h12, h13⟩⟩
  · rintro ⟨h1, h2, ⟨h3, h4, h10, h11⟩, ⟨h5, h6, h7, h8, h9, h12, h13⟩⟩
    exact ⟨h1, h2, h3, h4, h5, h6, h7, h8, h9, h10, h11, h12, h13⟩

/-- Settles O59. -/
theorem wellRunAtReset : Obligations.WellRunAtReset := by
  have hrate : RateIffConfigured State.reset := by
    unfold RateIffConfigured
    decide
  obtain ⟨hd, hf⟩ := wellRegisters_of_reset hrate rfl rfl rfl rfl
  refine (wellRun_iff _).2 ⟨fun w hw => ?_, reset_memory_wf, hd, hf⟩
  cases hw

/-- What a host command does to the registers keeps the invariant. -/
theorem exec_keepsRegisters {i : Instr} {s t : State} (hi : isHostCommand i = true)
    (hd : DemodWell s) (hf : FrameWell s) (h : exec i s = .next t) : DemodWell t ∧ FrameWell t := by
  have hdb : DemodWell (beginResponse s) := demodWell_congr hd rfl rfl (b := s.demod.baud) rfl
  have hfb : FrameWell (beginResponse s) := frameWell_congr hf rfl rfl rfl rfl
  cases exec_effect h with
  | configures hne =>
    exact wellRegisters_of_reset ⟨fun _ => hne, fun _ => rfl⟩ rfl rfl rfl rfl
  | resets => exact wellRegisters_of_reset hd.rate rfl rfl rfl rfl
  | @samples v s u c hc hu =>
    obtain ⟨hdu, hfu⟩ := demodulated_keeps hdb hfb (demodulate_demodulated hu)
    exact ⟨demodWell_congr hdu rfl rfl (b := u.demod.baud) rfl, frameWell_congr hfu rfl rfl rfl rfl⟩
  | @symbol q s u hc hu =>
    obtain ⟨w, -, he, -⟩ := symbolHandler_writes hu
    have hfu := handlerOf_frameWell hfb hu
    have hdu : DemodWell u := by
      rw [he]
      exact demodWell_congr hdb rfl rfl (apply_demod ..)
    exact ⟨demodWell_congr hdu rfl rfl (b := u.demod.baud) rfl, frameWell_congr hfu rfl rfl rfl rfl⟩
  | answers | fails =>
    exact ⟨demodWell_congr hd rfl rfl (b := s.demod.baud) rfl, frameWell_congr hf rfl rfl rfl rfl⟩
  | latches q hrow =>
    exact ⟨demodWell_congr hd rfl rfl (b := s.demod.baud) rfl, frameWell_congr hf rfl rfl rfl rfl⟩
  | records _ _ _ hrow | handles _ hrow => exact absurd (hi.symm.trans hrow) (by decide)

/-- A host command is answered while a frame in progress has a word for its next symbol
(`00_scope.md` R6). -/
theorem exec_answers {i : Instr} {s : State} (hi : isHostCommand i = true)
    (hdata : s.frame.state = .data → s.coll.dataBitCounter.toNat ≤ 2815) :
    ∃ t, exec i s = .next t := by
  cases i with
  | cfg f =>
    rw [exec_cfg]
    split <;> exact ⟨_, rfl⟩
  | rst => exact ⟨_, rfl⟩
  | smp v =>
    by_cases hc : s.configured = true
    · by_cases hv : v.extractLsb' 23 8 = 0xFF#8
      · exact ⟨_, exec_smp_notFinite hc hv⟩
      · obtain ⟨t, c, -, hexec⟩ := exec_smp_of_runs ⟨hc, hv, hdata⟩
        exact ⟨_, hexec⟩
    · exact ⟨_, exec_smp_unconfigured (by simpa using hc)⟩
  | sym q =>
    by_cases hc : s.configured = true
    · obtain ⟨t, -, hexec⟩ := exec_sym_writes q hc hdata
      exact ⟨_, hexec⟩
    · exact ⟨_, exec_sym_unconfigured (by simpa using hc)⟩
  | bchfix w =>
    cases hw : fixErrors w with
    | some r => exact ⟨_, exec_bchfix_some (c := r.1) (n := r.2) s hw⟩
    | none => exact ⟨_, exec_bchfix_none s hw⟩
  | bchenc d => exact ⟨_, rfl⟩
  | rdpb p k =>
    rw [exec_rdpb]
    split <;> exact ⟨_, rfl⟩
  | rdcsr n =>
    cases hn : csrRead n s with
    | some v => exact ⟨_, exec_rdcsr_some hn⟩
    | none => exact ⟨_, exec_rdcsr_none hn⟩
  | illegal0 | illegal9 | illegalA | illegalB | illegalC | illegalD | illegalE | illegalF =>
    exact ⟨_, rfl⟩
  | syncCode870C | syncCodeB068 | syncCode7B18 | syncCodeDEA0 | syncCode4C7C | syncCodeUnknown
  | symbol0 | symbol1 | symbol2 | symbol3 | stateSync1 | stateFiw | stateSync2 | stateData =>
    cases hi

/-- A command word decodes to a host command (`30_encoding.md` R101, R102). -/
theorem isHostCommand_decode {w : PortWord} (h : w.isCommand = true) :
    isHostCommand (decode w) = true := by
  cases w with
  | command w =>
    simp only [decode, decodeCommand]
    split <;> rfl
  | syncCode | symbol | stateCode => cases h

/-- Settles O60: the oldest command runs, and what it does to the registers keeps the invariant. -/
theorem stepKeepsWellRun : Obligations.StepKeepsWellRun := by
  intro s h
  obtain ⟨hcommands, hm, hd, hf⟩ := (wellRun_iff s).1 h
  obtain ⟨htake, hidle⟩ := stepRunsDecodedInstruction
  cases hp : s.pending with
  | nil => exact ⟨s, hidle s hp, h⟩
  | cons w rest =>
    have hi := isHostCommand_decode (hcommands w (by simp [hp]))
    have hdemod : DemodWell { s with pending := rest } :=
      demodWell_congr hd rfl rfl (b := s.demod.baud) rfl
    have hframe : FrameWell { s with pending := rest } := frameWell_congr hf rfl rfl rfl rfl
    obtain ⟨t, hexec⟩ := exec_answers (s := { s with pending := rest }) hi
      fun hst => dataBitCounter_le hf.data hst
    obtain ⟨hd', hf'⟩ := exec_keepsRegisters hi hdemod hframe hexec
    obtain ⟨hpending, -⟩ := portFieldsStay _ _ _ hexec
    refine ⟨t, (htake s w rest _ hp rfl).trans hexec,
      (wellRun_iff t).2 ⟨?_, exec_wf hexec hm, hd', hf'⟩⟩
    rw [CommandsOnly, hpending]
    exact fun x hx => hcommands x (by simp [hp, hx])

end Sys2Proof.Proofs.InvariantSteps
end
